-- ==== Sys2Proof/Word.lean ====
section
/-! DEFINITION. The word types of the block: bytes, 16-bit counters and 12-bit operation words (00_scope.md R8). -/

namespace Sys2Proof

/-- A byte, the spec's `u8` (R8). -/
abbrev Byte := BitVec 8

/-- A 16-bit unsigned value, the spec's `u16` (R8). -/
abbrev U16 := BitVec 16

/-- A 12-bit operation word: OP in bits 11..8, DATA in bits 7..0 (30_encoding.md R80). -/
abbrev OpWord := BitVec 12

end Sys2Proof
end

