-- ==== Sys2Proof/Config.lean ====
section
/-! DEFINITION. What is fixed when a block is built (00_scope.md R5, 10_state.md R41) and the values the spec leaves free. -/

namespace Sys2Proof

/-- The five OPEN checksum parameters (42_integrity.md R160). -/
structure CkParams where
  /-- CK_POLY: coefficients of x^7..x^0; the x^8 coefficient is 1 and not stored. -/
  poly : Byte
  /-- CK_INIT: the register before the first covered byte. -/
  init : Byte
  /-- CK_REFIN: each covered byte is bit-reversed before it enters the register. -/
  refin : Bool
  /-- CK_REFOUT: the register is bit-reversed before the final XOR. -/
  refout : Bool
  /-- CK_XOROUT: the value XORed into the result. -/
  xorout : Byte
  deriving DecidableEq, Repr, Inhabited

/-- The two byte-addressed buffers, the block's only address spaces (20_memory.md R50). -/
inductive Buffer where
  | rxb
  | txb
  deriving DecidableEq, Repr

/-- START, the start marker (R5). -/
abbrev Config.start : Byte := 0xAA#8

/-- RX_CAP = TX_CAP = MAX_PAYLOAD: bytes in each buffer, and the most a payload may hold (R5). -/
abbrev Config.capacity : Nat := 65535

/-- The checksum parameters of this block: OPEN, constants of a built block that the framer and the
parser share and no operation reads or writes (R160). No value is known, so none can be proved (log entry 1). -/
opaque Config.ck : CkParams

/-- The byte that draw number `n` gives index `i` of buffer `b`: after power-on and after every RESET each
byte of RXB and TXB "takes any value (a draw)" (70_reset_and_hazards.md R210). A free value (log entry 2). -/
opaque Config.bufferDraw : Nat → Buffer → Nat → Byte

/-- The reference instantiation CRC-8/SMBUS (42_integrity.md R169); not known to be the firmware's. -/
def CkParams.smbus : CkParams := ⟨0x07#8, 0x00#8, false, false, 0x00#8⟩

/-- The reference instantiation CRC-8/MAXIM-DOW (R169); not known to be the firmware's. -/
def CkParams.maximDow : CkParams := ⟨0x31#8, 0x00#8, true, true, 0x00#8⟩

/-- TEST-A, the instantiation of 95_test_vectors.md with nonzero CK_INIT and CK_XOROUT; no catalogue variant. -/
def CkParams.testA : CkParams := ⟨0x07#8, 0xFF#8, false, false, 0x55#8⟩

end Sys2Proof
end

