-- ==== Sys2Proof/Syntax.lean ====
section
/-! DEFINITION. The operations of the block, one constructor per row of spec/opcode_table.json. -/

namespace Sys2Proof

/-- The rows of the opcode table: the seven operations of 30_encoding.md R81 and, by name, the seven
COMMAND codes of R73. A command code is no operation of its own: as an instruction it is the TX_SEND that
carries it, the form `TX_SEND SET_DRIVE` of R83 (DESIGN CHOICE, log entry 3). -/
inductive Instr where
  /-- RX_BYTE b: the RX line delivers one received byte (41_parser_rx.md R130). -/
  | rxByte (b : Byte)
  /-- RX_FLUSH: abandon any partial frame (R139). -/
  | rxFlush
  /-- TX_PUSH b: append one payload byte (40_framer_tx.md R101). -/
  | txPush (b : Byte)
  /-- TX_SEND c: start a frame with command c (R102). -/
  | txSend (c : Byte)
  /-- TX_CLEAR: discard the pushed payload (R103). -/
  | txClear
  /-- TX_EMIT: output the next byte of the frame in progress (R104). -/
  | txEmit
  /-- RESET: return to the reset state (70_reset_and_hazards.md R210). -/
  | reset
  /-- SET_DRIVE: COMMAND 0x01 (R73). -/
  | setDrive
  /-- GET_DRIVES: COMMAND 0x02 (R73). -/
  | getDrives
  /-- ENCODE_EVENT: COMMAND 0x10 (R73). -/
  | encodeEvent
  /-- GET_TRUST: COMMAND 0x11 (R73). -/
  | getTrust
  /-- GET_PERSONALITY: COMMAND 0x20 (R73). -/
  | getPersonality
  /-- RESET_PERSONALITY: COMMAND 0x21 (R73). -/
  | resetPersonality
  /-- PING: COMMAND 0x30 (R73). -/
  | ping
  deriving DecidableEq, Repr

end Sys2Proof
end

