-- ==== Sys2Proof/WellFormed.lean ====
section
/-! DEFINITION. The forms in which an operation is offered to the block, and the checks that make one well formed. -/

namespace Sys2Proof

/-- What an agent offers at the block's interface. -/
inductive Offer where
  /-- A 12-bit operation word (30_encoding.md R80). -/
  | word (w : OpWord)
  /-- A TX_SEND named by its COMMAND byte alone, the table's wire_command rows (R73, R83; log entry 3). -/
  | command (c : Byte)
  deriving DecidableEq, Repr

/-- Why an operation word spells no operation (R82). -/
inductive Reject where
  /-- OP is 0x0 or 0x8..0xF. -/
  | reservedOp (op : BitVec 4)
  /-- OP is 0x2, 0x5, 0x6 or 0x7 and DATA is not 0x00. -/
  | reservedData (op : BitVec 4) (data : Byte)
  deriving DecidableEq, Repr

/-- The check on OP: the values of R81, 0x1 to 0x7; 0x0 and 0x8..0xF are reserved (R82). -/
def OpWord.opAssigned (w : OpWord) : Bool :=
  0x100 ≤ w.toNat && w.toNat < 0x800

/-- The check on DATA: 0x00 wherever OP is one of 0x2, 0x5, 0x6, 0x7 (R82). -/
def OpWord.dataLegal (w : OpWord) : Bool :=
  !((w.toNat / 256) ∈ [2, 5, 6, 7]) || w.toNat % 256 == 0

/-- A word that spells an operation (R82). -/
def OpWord.wellFormed (w : OpWord) : Bool :=
  OpWord.opAssigned w && OpWord.dataLegal w

/-- An offer that spells an operation. Every COMMAND byte is legal (R72). -/
def Offer.wellFormed : Offer → Bool
  | .word w => OpWord.wellFormed w
  | .command _ => true

/-- Well-formedness of an instruction. DATA is "a byte taken as is" (R80) and every byte is legal as a
received byte, a payload byte and a COMMAND (R71, R72, R77, R78), so the types of the fields are the whole
check: no ill-formed instruction can be written down. -/
def Instr.wellFormed : Instr → Bool
  | .rxByte _ => true
  | .rxFlush => true
  | .txPush _ => true
  | .txSend _ => true
  | .txClear => true
  | .txEmit => true
  | .reset => true
  | .setDrive => true
  | .getDrives => true
  | .encodeEvent => true
  | .getTrust => true
  | .getPersonality => true
  | .resetPersonality => true
  | .ping => true

end Sys2Proof
end

