-- ==== Sys2Proof/Machine/State.lean ====
section
/-! DEFINITION. The state of the block as plain data (10_state.md), the reasons a step can stop, and the reset state. -/

namespace Sys2Proof.Machine

/-- A buffer's contents: the bytes written since the last RESET, as (index, byte) pairs with strictly rising
indices below 65535. An index that is not listed holds no written byte; `memRead` says what it reads as. -/
abbrev Memory := List Host.Cell

/-- rx_state, the parser state (R21). -/
inductive RxState where
  | awaitStart
  | readLenHi
  | readLenLo
  | readCmd
  | readPayload
  | readChecksum
  deriving DecidableEq, Repr

/-- tx_phase, the framer phase: the next byte TX_EMIT will output (R27). -/
inductive TxPhase where
  | idle
  | start
  | lenHi
  | lenLo
  | cmd
  | payload
  | ck
  deriving DecidableEq, Repr

/-- The logical content of a frame (00_scope.md R11). -/
structure Frame where
  command : Byte
  payload : List Byte
  deriving DecidableEq, Repr

/-- The result of one received byte (R11). -/
inductive FrameEvent where
  | none
  | frameReady (f : Frame)
  | corrupt
  deriving DecidableEq, Repr

/-- The result of starting a frame (R11). -/
inductive TxError where
  | none
  | payloadTooLarge
  deriving DecidableEq, Repr

/-- The outputs of one step (R36). A field a step does not set is None. -/
structure Out where
  /-- rx_ev, set only by RX_BYTE. -/
  rxEv : FrameEvent
  /-- tx_byte, set only by TX_EMIT. -/
  txByte : Option Byte
  /-- tx_err, set only by TX_SEND. -/
  txErr : TxError
  deriving DecidableEq, Repr

/-- No output set. -/
def Out.quiet : Out := ⟨.none, .none, .none⟩

/-- The receive path (parser) of R20: rx_state, rx_len, rx_cmd, rx_rem, rx_acc, RXB (R21 to R26). -/
structure RxPath where
  state : RxState
  len : U16
  cmd : Byte
  rem : U16
  acc : Byte
  buf : Memory
  deriving DecidableEq, Repr

/-- The transmit path (framer) of R20: tx_phase, tx_len, tx_ovf, tx_cmd, tx_idx, tx_acc, TXB (R27 to R33). -/
structure TxPath where
  phase : TxPhase
  len : U16
  ovf : Bool
  cmd : Byte
  idx : U16
  acc : Byte
  buf : Memory
  deriving DecidableEq, Repr

/-- The agents that offer operations (00_scope.md R6). -/
inductive Agent where
  | rxLine
  | rxController
  | txProducer
  | txLine
  | resetSource
  deriving DecidableEq, Repr

/-- The model's own: for each agent the operations it has still to offer, oldest first, and the order in which
the agents move. The spec fixes no order (R7), so it is data and every order is some state (log entry 5). -/
structure Agents where
  rxLine : List Offer
  rxController : List Offer
  txProducer : List Offer
  txLine : List Offer
  resetSource : List Offer
  turns : List Agent
  deriving DecidableEq, Repr

/-- The model's own: what became of the operation offered in the last step (R185; log entry 8). -/
inductive Handshake where
  /-- No operation was offered. -/
  | idle
  /-- The operation was performed. -/
  | performed
  /-- The operation was not enabled: it had no step and its agent waits. -/
  | held
  deriving DecidableEq, Repr

/-- The state: the two paths of R20, the outputs of the last step (R36), and the model's own fields. -/
structure State where
  rx : RxPath
  tx : TxPath
  out : Out
  handshake : Handshake
  draws : Nat
  agents : Agents
  deriving DecidableEq, Repr

/-- Why the machine stops with a fault. -/
inductive Fault where
  /-- Raised by RX_BYTE in ReadPayload and TX_EMIT in Payload when the computed index is 0xFFFF, which RXB and
  TXB do not have (20_memory.md R50: "Index 0xFFFF is never formed"). No reachable state raises it. Safe. -/
  | noSuchIndex (b : Buffer)
  deriving DecidableEq, Repr

/-- Why an offer has no meaning. -/
inductive Refusal where
  /-- An instruction without a meaning yet; raised by exec's arms only. Safe. -/
  | notModelled (mnemonic : String)
  /-- Raised by step on an operation word whose OP is reserved (30_encoding.md R82, 60_exceptions.md R184). Safe. -/
  | reservedOp (op : BitVec 4)
  /-- Raised by step on an operation word with nonzero DATA where R82 wants 0x00 (R184). Safe. -/
  | reservedData (op : BitVec 4) (data : Byte)
  deriving DecidableEq, Repr

/-- The reset values of the receive path (R21 to R26, R210). -/
def RxPath.reset : RxPath := ⟨.awaitStart, 0x0000#16, 0x00#8, 0x0000#16, 0x00#8, []⟩

/-- The reset values of the transmit path (R27 to R33, R210). -/
def TxPath.reset : TxPath := ⟨.idle, 0x0000#16, false, 0x00#8, 0x0000#16, 0x00#8, []⟩

/-- No agent has an operation to offer and none moves. -/
def Agents.none : Agents := ⟨[], [], [], [], [], []⟩

/-- The state after power-on, which acts as a RESET (70_reset_and_hazards.md R211). -/
def State.reset : State := ⟨RxPath.reset, TxPath.reset, Out.quiet, .idle, 0, Agents.none⟩

end Sys2Proof.Machine
end

