-- ==== Sys2Proof/Machine/Flags.lean ====
section
/-! DEFINITION. The block's one stored flag tx_ovf (10_state.md R29, R39), when each operation is enabled
(60_exceptions.md R185), and the read-only status outputs (R35), each a pure function of the state. -/

namespace Sys2Proof.Machine

/-- TXB already holds 65535 bytes, so a TX_PUSH sets tx_ovf and drops its byte (40_framer_tx.md R101). -/
def TxPath.full (t : TxPath) : Bool := decide (t.len = 0xFFFF#16)

/-- The status code of a parser state (R21). -/
def RxState.code : RxState → BitVec 3
  | .awaitStart => 0#3
  | .readLenHi => 1#3
  | .readLenLo => 2#3
  | .readCmd => 3#3
  | .readPayload => 4#3
  | .readChecksum => 5#3

/-- The status code of a framer phase (R27). -/
def TxPhase.code : TxPhase → BitVec 3
  | .idle => 0#3
  | .start => 1#3
  | .lenHi => 2#3
  | .lenLo => 3#3
  | .cmd => 4#3
  | .payload => 5#3
  | .ck => 6#3

/-- Status output rx_state_code (R35). -/
def rxStateCode (s : State) : BitVec 3 := s.rx.state.code

/-- Status output tx_phase_code (R35). -/
def txPhaseCode (s : State) : BitVec 3 := s.tx.phase.code

/-- tx_busy as a function of the transmit path: a frame is in progress (R35). -/
def TxPath.busy (t : TxPath) : Bool := decide (t.phase ≠ .idle)

/-- Status output tx_busy (R35). -/
def txBusy (s : State) : Bool := s.tx.busy

/-- Status output tx_count (R35). -/
def txCount (s : State) : U16 := s.tx.len

/-- Status output tx_too_large (R35). -/
def txTooLarge (s : State) : Bool := s.tx.ovf

/-- "Enabled when" of each operation: the producer's operations while no frame is in progress, TX_EMIT while
one is, RX_BYTE, RX_FLUSH and RESET always (R185). -/
def enabled : Instr → State → Bool
  | .rxByte _, _ => true
  | .rxFlush, _ => true
  | .txPush _, s => !txBusy s
  | .txSend _, s => !txBusy s
  | .txClear, s => !txBusy s
  | .txEmit, s => txBusy s
  | .reset, _ => true
  | .setDrive, s => !txBusy s
  | .getDrives, s => !txBusy s
  | .encodeEvent, s => !txBusy s
  | .getTrust, s => !txBusy s
  | .getPersonality, s => !txBusy s
  | .resetPersonality, s => !txBusy s
  | .ping, s => !txBusy s

end Sys2Proof.Machine
end

