-- ==== Sys2Proof/Machine/Operands.lean ====
section
/-! DEFINITION. How operands are formed: the halves of LENGTH (20_memory.md R51, 30_encoding.md R71), the buffer
indices computed from registers (R50), the agent of each operation (R81) and the command codes (R73). -/

namespace Sys2Proof.Machine

/-- LENGTH[15:8], the first LENGTH byte on the wire (R51). -/
def hiByte (n : U16) : Byte := n.extractLsb' 8 8

/-- LENGTH[7:0], the second LENGTH byte on the wire (R51). -/
def loByte (n : U16) : Byte := n.extractLsb' 0 8

/-- `zext_16(b)`, the spec's only extension (00_scope.md R8). -/
def zext16 (b : Byte) : U16 := b.setWidth 16

/-- `zext_16(b) << 8`, the value ReadLenHi gives rx_len (41_parser_rx.md R132). -/
def lenFromHi (b : Byte) : U16 := zext16 b <<< 8

/-- `len | zext_16(b)`, the value ReadLenLo gives rx_len (R133). -/
def lenWithLo (n : U16) (b : Byte) : U16 := n ||| zext16 b

/-- The RXB index of the next payload byte, `rx_len - rx_rem` (R135). -/
def RxPath.index (r : RxPath) : U16 := r.len - r.rem

/-- The agent that offers an operation (R81). -/
def agentOf : Instr → Agent
  | .rxByte _ => .rxLine
  | .rxFlush => .rxController
  | .txPush _ => .txProducer
  | .txSend _ => .txProducer
  | .txClear => .txProducer
  | .txEmit => .txLine
  | .reset => .resetSource
  | .setDrive => .txProducer
  | .getDrives => .txProducer
  | .encodeEvent => .txProducer
  | .getTrust => .txProducer
  | .getPersonality => .txProducer
  | .resetPersonality => .txProducer
  | .ping => .txProducer

/-- The COMMAND byte of an operation that sends one (R73, R102). -/
def commandOf : Instr → Option Byte
  | .txSend c => some c
  | .setDrive => some 0x01#8
  | .getDrives => some 0x02#8
  | .encodeEvent => some 0x10#8
  | .getTrust => some 0x11#8
  | .getPersonality => some 0x20#8
  | .resetPersonality => some 0x21#8
  | .ping => some 0x30#8
  | .rxByte _ => none
  | .rxFlush => none
  | .txPush _ => none
  | .txClear => none
  | .txEmit => none
  | .reset => none

/-- The operations that read and write only the receive path (10_state.md R20). -/
def receivePath : Instr → Bool
  | .rxByte _ => true
  | .rxFlush => true
  | .txPush _ => false
  | .txSend _ => false
  | .txClear => false
  | .txEmit => false
  | .reset => false
  | .setDrive => false
  | .getDrives => false
  | .encodeEvent => false
  | .getTrust => false
  | .getPersonality => false
  | .resetPersonality => false
  | .ping => false

/-- The operations that read and write only the transmit path (R20). -/
def transmitPath : Instr → Bool
  | .rxByte _ => false
  | .rxFlush => false
  | .txPush _ => true
  | .txSend _ => true
  | .txClear => true
  | .txEmit => true
  | .reset => false
  | .setDrive => true
  | .getDrives => true
  | .encodeEvent => true
  | .getTrust => true
  | .getPersonality => true
  | .resetPersonality => true
  | .ping => true

/-- Whether R73 marks a COMMAND value DESTRUCTIVE. Informative: no bit of the frame marks it and the block
frames the value like any other (R72, 60_exceptions.md R192). -/
def destructive (c : Byte) : Bool := c == 0x21#8

end Sys2Proof.Machine
end

