-- ==== Sys2Proof/Machine/Integrity.lean ====
section
/-! DEFINITION. The integrity checker: the parameterised CRC-8 of 42_integrity.md R160 to R169, the wire frame of
30_encoding.md R70 and R79. -/

namespace Sys2Proof.Machine

/-- `reflect8(v)`: the byte whose bit i is bit 7 - i of `v` (R161). -/
def reflect8 (v : Byte) : Byte :=
  BitVec.ofBool (v.getLsbD 0) ++ BitVec.ofBool (v.getLsbD 1) ++ BitVec.ofBool (v.getLsbD 2) ++
  BitVec.ofBool (v.getLsbD 3) ++ BitVec.ofBool (v.getLsbD 4) ++ BitVec.ofBool (v.getLsbD 5) ++
  BitVec.ofBool (v.getLsbD 6) ++ BitVec.ofBool (v.getLsbD 7)

/-- One of the eight shifts of `ck_step` (R162). -/
def ckShift (poly : Byte) (a : Byte) : Byte :=
  if a.getLsbD 7 then (a <<< 1) ^^^ poly else a <<< 1

/-- The eight shifts of `ck_step` (R162). -/
def ckShift8 (poly : Byte) (a : Byte) : Byte :=
  ckShift poly (ckShift poly (ckShift poly (ckShift poly
    (ckShift poly (ckShift poly (ckShift poly (ckShift poly a)))))))

/-- `ck_step(acc, b)`: advance the checksum register by one covered byte (R162). -/
def ckStep (p : CkParams) (acc b : Byte) : Byte :=
  ckShift8 p.poly (acc ^^^ (if p.refin then reflect8 b else b))

/-- `ck_final(acc)` (R163). -/
def ckFinal (p : CkParams) (acc : Byte) : Byte :=
  (if p.refout then reflect8 acc else acc) ^^^ p.xorout

/-- `fold(ck_step, a, s)` (R164). -/
def ckFold (p : CkParams) (a : Byte) (bs : List Byte) : Byte := bs.foldl (ckStep p) a

/-- `checksum(s)` (R164). -/
def checksum (p : CkParams) (bs : List Byte) : Byte := ckFinal p (ckFold p p.init bs)

/-- `crc0`: the checksum with CK_INIT = 0x00 and CK_XOROUT = 0x00 (R168). -/
def crc0 (p : CkParams) (bs : List Byte) : Byte :=
  checksum { p with init := 0x00#8, xorout := 0x00#8 } bs

/-- LENGTH_HI, LENGTH_LO, COMMAND: the covered bytes before the payload, in wire order (R165). -/
def header (n : U16) (c : Byte) : List Byte := [hiByte n, loByte n, c]

/-- The covered bytes `[L[15:8], L[7:0], COMMAND] ++ PAYLOAD` of a frame (R165). -/
def frameBody (c : Byte) (payload : List Byte) : List Byte :=
  header (BitVec.ofNat 16 payload.length) c ++ payload

/-- `frame_bytes(c, p)`: the wire frame, or none for PayloadTooLarge (30_encoding.md R79). -/
def frameBytes (p : CkParams) (c : Byte) (payload : List Byte) : Option (List Byte) :=
  if payload.length > Config.capacity then none
  else some (Config.start :: frameBody c payload ++ [checksum p (frameBody c payload)])

end Sys2Proof.Machine
end

