-- ==== Sys2Proof/Machine/Ops.lean ====
section
/-! DEFINITION. The named operations over the buffers (00_scope.md R10, 20_memory.md R50) and over the state:
performing an operation, holding one, and the outputs of a step. The block has no trap entry and no trap
return (60_exceptions.md R188, R189): an error is an output of its step. -/

namespace Sys2Proof.Machine

/-- The byte written at index `a`, if any. -/
def Memory.read? : Memory → Nat → Option Byte
  | [], _ => none
  | (a', v) :: m, a => if a = a' then some v else Memory.read? m a

/-- Write `v` at index `a`, keeping the indices strictly rising. -/
def Memory.write : Memory → Nat → Byte → Memory
  | [], a, v => [(a, v)]
  | (a', v') :: m, a, v =>
    if a < a' then (a, v) :: (a', v') :: m
    else if a = a' then (a, v) :: m
    else (a', v') :: Memory.write m a v

/-- The indices of `m` rise strictly from `lo` on and lie in 0..65534 (R50). -/
def Memory.wfFrom : Nat → Memory → Bool
  | _, [] => true
  | lo, (a, _) :: m => decide (lo ≤ a) && decide (a < Config.capacity) && Memory.wfFrom (a + 1) m

/-- The canonical form of a buffer's contents. A listed index holds a written byte and an unlisted one holds
none, so no entry is equal to what an unlisted index holds. -/
def Memory.wf (m : Memory) : Bool := Memory.wfFrom 0 m

/-- `MemRead(B, a, 1)` (R10): the byte written at index `a`, and where nothing has been written since the last
RESET the byte of the current draw (R26, R33, R210). The ONE place that says what an unlisted index reads as. -/
def memRead (draw : Nat) (b : Buffer) (m : Memory) (a : Nat) : Byte :=
  (Memory.read? m a).getD (Config.bufferDraw draw b a)

/-- `[MemRead(B, i, 1) for i in 0 .. n)` (41_parser_rx.md R130). -/
def memReadTo (draw : Nat) (b : Buffer) (m : Memory) (n : Nat) : List Byte :=
  (List.range n).map (memRead draw b m)

/-- Whether a 16-bit index is one of 0x0000..0xFFFE (R50). -/
def indexExists (a : U16) : Bool := decide (a.toNat < Config.capacity)

/-- What an operation does to its path: it is performed, giving the path and the outputs of its step, it is
held (60_exceptions.md R185), or it forms an index that does not exist (R50). -/
inductive PathResult (π : Type) where
  | done (path : π) (out : Out)
  | held
  | fault (r : Fault)
  deriving DecidableEq, Repr

/-- A held operation has no step: both paths keep their values and nothing is output (R185). -/
def State.hold (s : State) : State := { s with out := Out.quiet, handshake := .held }

/-- No operation offered: as a hold, but nobody waits (log entry 6). -/
def State.rest (s : State) : State := { s with out := Out.quiet, handshake := .idle }

/-- A performed receive-path operation: it writes the receive path and the outputs of its step, no more. -/
def State.withRx (s : State) (r : RxPath) (o : Out) : State :=
  { s with rx := r, out := o, handshake := .performed }

/-- A performed transmit-path operation: it writes the transmit path and the outputs of its step, no more. -/
def State.withTx (s : State) (t : TxPath) (o : Out) : State :=
  { s with tx := t, out := o, handshake := .performed }

/-- RESET's writes (70_reset_and_hazards.md R210): every register its reset value, both buffers drawn anew. -/
def State.withReset (s : State) : State :=
  { s with rx := RxPath.reset, tx := TxPath.reset, out := Out.quiet, handshake := .performed,
           draws := s.draws + 1 }

/-- The outcome of a receive-path operation. -/
def commitRx (s : State) : PathResult RxPath → Host.Outcome State Fault Refusal
  | .done r o => .next (s.withRx r o)
  | .held => .next s.hold
  | .fault f => .fault f

/-- The outcome of a transmit-path operation. -/
def commitTx (s : State) : PathResult TxPath → Host.Outcome State Fault Refusal
  | .done t o => .next (s.withTx t o)
  | .held => .next s.hold
  | .fault f => .fault f

/-- `emit_rx(ev)` alone (R10). -/
def emitRx (ev : FrameEvent) : Out := { Out.quiet with rxEv := ev }

/-- `emit_tx(b)` alone (R10). -/
def emitTx (b : Byte) : Out := { Out.quiet with txByte := some b }

/-- `raise PayloadTooLarge()` alone (R10): it sets tx_err and transfers no control. -/
def raisePayloadTooLarge : Out := { Out.quiet with txErr := .payloadTooLarge }

/-- The next state of an outcome, if it has one. -/
def nextState? : Host.Outcome State Fault Refusal → Option State
  | .next s => some s
  | .fault _ => none
  | .refused _ => none

end Sys2Proof.Machine
end

