-- ==== Sys2Proof/Machine/Transmit.lean ====
section
/-! DEFINITION. The transmit path (40_framer_tx.md): TX_PUSH, TX_SEND, TX_CLEAR and TX_EMIT, one arm per phase. -/

namespace Sys2Proof.Machine

/-- A producer's operation: performed while no frame is in progress, otherwise held (60_exceptions.md R185). -/
def whenIdle (t : TxPath) (perform : TxPath → PathResult TxPath) : PathResult TxPath :=
  if t.busy then .held else perform t

/-- TX_PUSH once enabled (R101): the 65536th byte since the last clear is dropped and sets tx_ovf. -/
def pushByte (b : Byte) (t : TxPath) : PathResult TxPath :=
  if t.full then .done { t with ovf := true } Out.quiet
  else .done { t with buf := Memory.write t.buf t.len.toNat b, len := t.len + 1#16 } Out.quiet

/-- TX_SEND once enabled (R102): start the frame, or fail with PayloadTooLarge and discard the payload. -/
def sendFrame (c : Byte) (t : TxPath) : PathResult TxPath :=
  if t.ovf then .done { t with len := 0x0000#16, ovf := false } raisePayloadTooLarge
  else .done { t with cmd := c, idx := 0x0000#16, phase := .start } Out.quiet

/-- TX_CLEAR once enabled (R103): TXB keeps its bytes. -/
def clearPayload (t : TxPath) : PathResult TxPath :=
  .done { t with len := 0x0000#16, ovf := false } Out.quiet

/-- A phase that emits a covered byte: it advances tx_acc by that byte and takes the next phase (R104). -/
def emitCovered (p : CkParams) (b : Byte) (next : TxPhase) (t : TxPath) : PathResult TxPath :=
  .done { t with acc := ckStep p t.acc b, phase := next } (emitTx b)

/-- Phase Start (R104): the start marker is emitted and does not enter tx_acc. -/
def emitStart (p : CkParams) (t : TxPath) : PathResult TxPath :=
  .done { t with acc := p.init, phase := .lenHi } (emitTx Config.start)

/-- Phase Cmd (R104): an empty payload skips Payload. -/
def emitCmd (p : CkParams) (t : TxPath) : PathResult TxPath :=
  emitCovered p t.cmd (if t.len = 0x0000#16 then .ck else .payload) t

/-- Phase Payload (R104): TXB[tx_idx], then tx_idx + 1; the last byte leads to Ck. -/
def emitPayload (p : CkParams) (draw : Nat) (t : TxPath) : PathResult TxPath :=
  if indexExists t.idx then
    emitCovered p (memRead draw .txb t.buf t.idx.toNat)
      (if t.idx + 1#16 = t.len then .ck else .payload) { t with idx := t.idx + 1#16 }
  else .fault (.noSuchIndex .txb)

/-- Phase Ck (R104): CHECKSUM, and the framer is Idle with an empty buffer. -/
def emitCk (p : CkParams) (t : TxPath) : PathResult TxPath :=
  .done { t with phase := .idle, len := 0x0000#16, idx := 0x0000#16 } (emitTx (ckFinal p t.acc))

/-- `TX_EMIT` on the transmit path, by phase; held in Idle (R104). -/
def emit (p : CkParams) (draw : Nat) (t : TxPath) : PathResult TxPath :=
  match t.phase with
  | .idle => .held
  | .start => emitStart p t
  | .lenHi => emitCovered p (hiByte t.len) .lenLo t
  | .lenLo => emitCovered p (loByte t.len) .cmd t
  | .cmd => emitCmd p t
  | .payload => emitPayload p draw t
  | .ck => emitCk p t

/-- TX_SEND of COMMAND byte `c`, the operation behind TX_SEND and the seven command names. -/
def sendCommand (c : Byte) (s : State) : Host.Outcome State Fault Refusal :=
  commitTx s (whenIdle s.tx (sendFrame c))

/-- TX_EMIT with the checksum parameters as an argument (10_state.md R41). -/
def txEmitWith (p : CkParams) (s : State) : Host.Outcome State Fault Refusal :=
  commitTx s (emit p s.draws s.tx)

/-- TX_PUSH b (R101). -/
def execTxPush (b : Byte) (s : State) : Host.Outcome State Fault Refusal :=
  commitTx s (whenIdle s.tx (pushByte b))

/-- TX_SEND c (R102). -/
def execTxSend (c : Byte) (s : State) : Host.Outcome State Fault Refusal := sendCommand c s

/-- TX_CLEAR (R103). -/
def execTxClear (s : State) : Host.Outcome State Fault Refusal :=
  commitTx s (whenIdle s.tx clearPayload)

/-- TX_EMIT (R104). -/
def execTxEmit (s : State) : Host.Outcome State Fault Refusal := txEmitWith Config.ck s

end Sys2Proof.Machine
end

