-- ==== Sys2Proof/Machine/Command.lean ====
section
/-! DEFINITION. The seven command codes of 30_encoding.md R73 as instructions: each is the TX_SEND of its COMMAND
byte, `TX_SEND SET_DRIVE` = `TX_SEND 0x01` (R83). The block treats no COMMAND value specially (R72), the
DESTRUCTIVE one included (60_exceptions.md R192). DESIGN CHOICE, log entry 3. -/

namespace Sys2Proof.Machine

/-- SET_DRIVE, COMMAND 0x01 (R73). -/
def execSetDrive (s : State) : Host.Outcome State Fault Refusal := sendCommand 0x01#8 s

/-- GET_DRIVES, COMMAND 0x02 (R73). -/
def execGetDrives (s : State) : Host.Outcome State Fault Refusal := sendCommand 0x02#8 s

/-- ENCODE_EVENT, COMMAND 0x10 (R73). -/
def execEncodeEvent (s : State) : Host.Outcome State Fault Refusal := sendCommand 0x10#8 s

/-- GET_TRUST, COMMAND 0x11 (R73). -/
def execGetTrust (s : State) : Host.Outcome State Fault Refusal := sendCommand 0x11#8 s

/-- GET_PERSONALITY, COMMAND 0x20 (R73). -/
def execGetPersonality (s : State) : Host.Outcome State Fault Refusal := sendCommand 0x20#8 s

/-- RESET_PERSONALITY, COMMAND 0x21 (R73): framed like any other. -/
def execResetPersonality (s : State) : Host.Outcome State Fault Refusal := sendCommand 0x21#8 s

/-- PING, COMMAND 0x30 (R73). -/
def execPing (s : State) : Host.Outcome State Fault Refusal := sendCommand 0x30#8 s

end Sys2Proof.Machine
end

