-- ==== Sys2Proof/Machine/Control.lean ====
section
/-! DEFINITION. RESET (70_reset_and_hazards.md R210). -/

namespace Sys2Proof.Machine

/-- RESET: always enabled, no output; a partial frame is dropped without a Corrupt event, a frame being sent is
cut off, pushed payload is lost (R210). What the agents still offer is outside the block and stays. -/
def execReset (s : State) : Host.Outcome State Fault Refusal := .next s.withReset

end Sys2Proof.Machine
end

