-- ==== Sys2Proof/Machine/Receive.lean ====
section
/-! DEFINITION. The receive path (41_parser_rx.md): RX_BYTE, one arm per parser state, and RX_FLUSH. -/

namespace Sys2Proof.Machine

/-- Arm AwaitStart (R131): the start marker loads CK_INIT and is not fed to ck_step; anything else is noise. -/
def rxAwaitStart (p : CkParams) (b : Byte) (r : RxPath) : RxPath :=
  if b = Config.start then { r with acc := p.init, state := .readLenHi } else r

/-- Arm ReadLenHi (R132). -/
def rxReadLenHi (p : CkParams) (b : Byte) (r : RxPath) : RxPath :=
  { r with len := lenFromHi b, acc := ckStep p r.acc b, state := .readLenLo }

/-- Arm ReadLenLo (R133): rx_rem takes the completed LENGTH. -/
def rxReadLenLo (p : CkParams) (b : Byte) (r : RxPath) : RxPath :=
  { r with len := lenWithLo r.len b, rem := lenWithLo r.len b, acc := ckStep p r.acc b, state := .readCmd }

/-- Arm ReadCmd (R134): an empty payload skips ReadPayload. -/
def rxReadCmd (p : CkParams) (b : Byte) (r : RxPath) : RxPath :=
  { r with cmd := b, acc := ckStep p r.acc b,
           state := if r.len = 0x0000#16 then .readChecksum else .readPayload }

/-- Arm ReadPayload (R135), for an index that exists. -/
def rxReadPayload (p : CkParams) (b : Byte) (r : RxPath) : RxPath :=
  { r with buf := Memory.write r.buf r.index.toNat b, rem := r.rem - 1#16, acc := ckStep p r.acc b,
           state := if r.rem - 1#16 = 0x0000#16 then .readChecksum else .readPayload }

/-- The event of arm ReadChecksum (R136): the frame where the CHECKSUM byte verifies, Corrupt where not. -/
def rxVerdict (p : CkParams) (draw : Nat) (b : Byte) (r : RxPath) : FrameEvent :=
  if b = ckFinal p r.acc then .frameReady ⟨r.cmd, memReadTo draw .rxb r.buf r.len.toNat⟩ else .corrupt

/-- `RX_BYTE b` on the receive path, by parser state (R130). -/
def feed (p : CkParams) (draw : Nat) (b : Byte) (r : RxPath) : PathResult RxPath :=
  match r.state with
  | .awaitStart => .done (rxAwaitStart p b r) Out.quiet
  | .readLenHi => .done (rxReadLenHi p b r) Out.quiet
  | .readLenLo => .done (rxReadLenLo p b r) Out.quiet
  | .readCmd => .done (rxReadCmd p b r) Out.quiet
  | .readPayload =>
    if indexExists r.index then .done (rxReadPayload p b r) Out.quiet else .fault (.noSuchIndex .rxb)
  | .readChecksum => .done { r with state := .awaitStart } (emitRx (rxVerdict p draw b r))

/-- `RX_FLUSH` on the receive path: only rx_state is written (R139). -/
def flush (r : RxPath) : PathResult RxPath := .done { r with state := .awaitStart } Out.quiet

/-- RX_BYTE with the checksum parameters as an argument (10_state.md R41). -/
def rxByteWith (p : CkParams) (b : Byte) (s : State) : Host.Outcome State Fault Refusal :=
  commitRx s (feed p s.draws b s.rx)

/-- RX_BYTE b (R130). -/
def execRxByte (b : Byte) (s : State) : Host.Outcome State Fault Refusal := rxByteWith Config.ck b s

/-- RX_FLUSH (R139). -/
def execRxFlush (s : State) : Host.Outcome State Fault Refusal := commitRx s (flush s.rx)

end Sys2Proof.Machine
end

