-- ==== Sys2Proof/Machine/Dispatch.lean ====
section
/-! DEFINITION. exec: one arm per instruction, each a direct call of its meaning. -/

namespace Sys2Proof.Machine

def exec (i : Instr) (s : State) : Host.Outcome State Fault Refusal :=
  match i with
  | .rxByte b => Sys2Proof.Machine.execRxByte b s
  | .rxFlush => Sys2Proof.Machine.execRxFlush s
  | .txPush b => Sys2Proof.Machine.execTxPush b s
  | .txSend c => Sys2Proof.Machine.execTxSend c s
  | .txClear => Sys2Proof.Machine.execTxClear s
  | .txEmit => Sys2Proof.Machine.execTxEmit s
  | .reset => Sys2Proof.Machine.execReset s
  | .setDrive => Sys2Proof.Machine.execSetDrive s
  | .getDrives => Sys2Proof.Machine.execGetDrives s
  | .encodeEvent => Sys2Proof.Machine.execEncodeEvent s
  | .getTrust => Sys2Proof.Machine.execGetTrust s
  | .getPersonality => Sys2Proof.Machine.execGetPersonality s
  | .resetPersonality => Sys2Proof.Machine.execResetPersonality s
  | .ping => Sys2Proof.Machine.execPing s

end Sys2Proof.Machine
end

