-- ==== Sys2Proof/Decode.lean ====
section
/-! DEFINITION. The decoder of operation words and COMMAND names, total and rejecting by name, and the encoder
written from the same tables (30_encoding.md R73, R80, R81, R82). -/

namespace Sys2Proof

/-- OP, bits 11..8 of the operation word (R80). -/
def opField (w : OpWord) : BitVec 4 := w.extractLsb' 8 4

/-- DATA, bits 7..0 of the operation word (R80). -/
def dataField (w : OpWord) : Byte := w.extractLsb' 0 8

/-- The operation word `(OP << 8) | DATA` (R83). -/
def opWord (op : BitVec 4) (data : Byte) : OpWord := op ++ data

/-- An operation without operand: DATA must be 0x00 (R82). -/
def decodePlain (op : BitVec 4) (data : Byte) (i : Instr) : Except Reject Instr :=
  if data = 0x00#8 then .ok i else .error (.reservedData op data)

/-- The operation a 12-bit word spells (R81), or why it spells none (R82). -/
def decodeWord (w : OpWord) : Except Reject Instr :=
  let op := opField w
  let data := dataField w
  if op = 0x1#4 then .ok (.rxByte data)
  else if op = 0x2#4 then decodePlain op data .rxFlush
  else if op = 0x3#4 then .ok (.txPush data)
  else if op = 0x4#4 then .ok (.txSend data)
  else if op = 0x5#4 then decodePlain op data .txClear
  else if op = 0x6#4 then decodePlain op data .txEmit
  else if op = 0x7#4 then decodePlain op data .reset
  else .error (.reservedOp op)

/-- The TX_SEND that carries COMMAND byte `c`, under its name where R73 gives one. The other 249 values
have no name and are carried alike (R72; log entry 4). -/
def decodeCommand (c : Byte) : Instr :=
  if c = 0x01#8 then .setDrive
  else if c = 0x02#8 then .getDrives
  else if c = 0x10#8 then .encodeEvent
  else if c = 0x11#8 then .getTrust
  else if c = 0x20#8 then .getPersonality
  else if c = 0x21#8 then .resetPersonality
  else if c = 0x30#8 then .ping
  else .txSend c

/-- The decoder: total on every offer, rejecting by name. -/
def decode : Offer → Except Reject Instr
  | .word w => decodeWord w
  | .command c => .ok (decodeCommand c)

/-- The encoder, from the encodings of R73 and R81. -/
def encode : Instr → Offer
  | .rxByte b => .word (opWord 0x1#4 b)
  | .rxFlush => .word (opWord 0x2#4 0x00#8)
  | .txPush b => .word (opWord 0x3#4 b)
  | .txSend c => .word (opWord 0x4#4 c)
  | .txClear => .word (opWord 0x5#4 0x00#8)
  | .txEmit => .word (opWord 0x6#4 0x00#8)
  | .reset => .word (opWord 0x7#4 0x00#8)
  | .setDrive => .command 0x01#8
  | .getDrives => .command 0x02#8
  | .encodeEvent => .command 0x10#8
  | .getTrust => .command 0x11#8
  | .getPersonality => .command 0x20#8
  | .resetPersonality => .command 0x21#8
  | .ping => .command 0x30#8

/-- The offer an opcode-table row's bits stand for: at most 8 bits are a COMMAND byte, more are an operation
word. Bits above the 12 of an operation word must be 0 (log entry 14); a number that does not fit is given
as the reserved word 0x000, which spells no operation. -/
def tableOffer (nbits w : Nat) : Offer :=
  if nbits ≤ 8 then
    if w < 256 then .command (BitVec.ofNat 8 w) else .word 0x000#12
  else
    if w < 4096 then .word (BitVec.ofNat 12 w) else .word 0x000#12

/-- The instruction the decoder reads from bits numbered as spec/opcode_table.json numbers them. -/
def decodeTableWord (nbits w : Nat) : Option Instr :=
  match decode (tableOffer nbits w) with
  | .ok i => some i
  | .error _ => none

end Sys2Proof
end

