-- ==== Sys2Proof/Machine/Fetch.lean ====
section
/-! DEFINITION. How the next operation comes from the agents: the agent whose turn it is offers its oldest
operation; it leaves that agent's list when it is enabled and waits there when it is not (60_exceptions.md R185). -/

namespace Sys2Proof.Machine

/-- The operations an agent has still to offer. -/
def Agents.pending (g : Agents) : Agent → List Offer
  | .rxLine => g.rxLine
  | .rxController => g.rxController
  | .txProducer => g.txProducer
  | .txLine => g.txLine
  | .resetSource => g.resetSource

/-- Replace the operations one agent has still to offer. -/
def Agents.withPending (g : Agents) (a : Agent) (os : List Offer) : Agents :=
  match a with
  | .rxLine => { g with rxLine := os }
  | .rxController => { g with rxController := os }
  | .txProducer => { g with txProducer := os }
  | .txLine => { g with txLine := os }
  | .resetSource => { g with resetSource := os }

/-- A turn has been taken. -/
def State.withTurns (s : State) (ts : List Agent) : State :=
  { s with agents := { s.agents with turns := ts } }

/-- An agent's remaining operations. -/
def State.withPending (s : State) (a : Agent) (os : List Offer) : State :=
  { s with agents := s.agents.withPending a os }

/-- The refusal of a word that spells no operation (R184). -/
def refusalOf : Reject → Refusal
  | .reservedOp op => .reservedOp op
  | .reservedData op data => .reservedData op data

/-- What the agents bring to a step. -/
inductive Fetched where
  /-- No agent offers anything; the state is the one to rest in. -/
  | nothing (s : State)
  /-- An operation, and the state it is performed (or held) in. -/
  | operation (i : Instr) (s : State)
  /-- A word that spells no operation. -/
  | reserved (r : Reject)
  deriving DecidableEq, Repr

/-- The state an operation is performed in: its turn is used up, and it has left its agent's list if it is
enabled; a held operation stays there, oldest, and its agent waits (R185). -/
def offered (s : State) (a : Agent) (os : List Offer) (ts : List Agent) (i : Instr) : State :=
  if enabled i s then (s.withTurns ts).withPending a os else s.withTurns ts

/-- The operation of the agent whose turn it is. Any agent may offer any operation (60_exceptions.md R192). -/
def fetch (s : State) : Fetched :=
  match s.agents.turns with
  | [] => .nothing s
  | a :: ts =>
    match s.agents.pending a with
    | [] => .nothing (s.withTurns ts)
    | o :: os =>
      match decode o with
      | .error r => .reserved r
      | .ok i => .operation i (offered s a os ts i)

/-- The agent that offers a given offer; a reserved word has none, and the RX line stands in. -/
def offerAgent (o : Offer) : Agent :=
  match decode o with
  | .ok i => agentOf i
  | .error _ => .rxLine

/-- `s` in which offer `o` is the next one: its agent has the next turn and `o` is its oldest operation. -/
def State.withOffer (s : State) (o : Offer) : State :=
  (s.withTurns (offerAgent o :: s.agents.turns)).withPending (offerAgent o)
    (o :: s.agents.pending (offerAgent o))

end Sys2Proof.Machine
end

