-- ==== Sys2Proof/Machine/Step.lean ====
section
/-! DEFINITION. One step: the operation of the agent whose turn it is. -/

namespace Sys2Proof.Machine

/-- One step performs exactly one operation (00_scope.md R6): it refuses a word that spells none (R184), and
where no agent offers anything the block waits, since it never stops by itself (R7; log entry 6). -/
def step (s : State) : Host.Outcome State Fault Refusal :=
  match fetch s with
  | .nothing s' => .next s'.rest
  | .operation i s' => exec i s'
  | .reserved r => .refused (refusalOf r)

/-- `s` with the opcode-table row's bits as the operation the next step takes (log entry 11). -/
def State.withFetchWord (s : State) (nbits w : Nat) : State := s.withOffer (tableOffer nbits w)

end Sys2Proof.Machine
end

