-- ==== Sys2Proof/Machine/Assembler.lean ====
section
/-! DEFINITION. The assembler syntax of 30_encoding.md R83, a line of text included, and the pseudo-operations of R84,
whose text is not modelled, only their expansion (log entry 16). -/

namespace Sys2Proof.Machine

/-- The mnemonics of R81. -/
inductive Mnemonic where
  | RX_BYTE
  | RX_FLUSH
  | TX_PUSH
  | TX_SEND
  | TX_CLEAR
  | TX_EMIT
  | RESET
  deriving DecidableEq, Repr

/-- The command names of R73. -/
inductive CommandName where
  | SET_DRIVE
  | GET_DRIVES
  | ENCODE_EVENT
  | GET_TRUST
  | GET_PERSONALITY
  | RESET_PERSONALITY
  | PING
  deriving DecidableEq, Repr

/-- An operand: a number, or the name of a command (R83). -/
inductive AsmOperand where
  | number (n : Nat)
  | name (c : CommandName)
  deriving DecidableEq, Repr

/-- One line: a mnemonic and its operand, if any (R83). -/
structure AsmLine where
  mnemonic : Mnemonic
  operand : Option AsmOperand
  deriving DecidableEq, Repr

/-- The code of a command name (R73). -/
def commandCode : CommandName → Byte
  | .SET_DRIVE => 0x01#8
  | .GET_DRIVES => 0x02#8
  | .ENCODE_EVENT => 0x10#8
  | .GET_TRUST => 0x11#8
  | .GET_PERSONALITY => 0x20#8
  | .RESET_PERSONALITY => 0x21#8
  | .PING => 0x30#8

/-- The OP field of a mnemonic (R81). -/
def mnemonicOp : Mnemonic → BitVec 4
  | .RX_BYTE => 0x1#4
  | .RX_FLUSH => 0x2#4
  | .TX_PUSH => 0x3#4
  | .TX_SEND => 0x4#4
  | .TX_CLEAR => 0x5#4
  | .TX_EMIT => 0x6#4
  | .RESET => 0x7#4

/-- A numeric operand in 0..255 (R83). -/
def numberByte (n : Nat) : Option Byte := if n ≤ 255 then some (BitVec.ofNat 8 n) else none

/-- The DATA field a line's operand gives: RX_BYTE, TX_PUSH and TX_SEND take one operand, TX_SEND's may be a
command name, and the other mnemonics take none (R83). -/
def operandByte : AsmLine → Option Byte
  | ⟨.RX_BYTE, some (.number n)⟩ => numberByte n
  | ⟨.TX_PUSH, some (.number n)⟩ => numberByte n
  | ⟨.TX_SEND, some (.number n)⟩ => numberByte n
  | ⟨.TX_SEND, some (.name c)⟩ => some (commandCode c)
  | ⟨.RX_FLUSH, none⟩ => some 0x00#8
  | ⟨.TX_CLEAR, none⟩ => some 0x00#8
  | ⟨.TX_EMIT, none⟩ => some 0x00#8
  | ⟨.RESET, none⟩ => some 0x00#8
  | _ => none

/-- "A line assembles to the operation word `(OP << 8) | DATA`" (R83); none for a line that is not of the syntax. -/
def assemble (l : AsmLine) : Option OpWord := (operandByte l).map (opWord (mnemonicOp l.mnemonic))

/-- The three hex digits a word is written as, most significant first (R83). -/
def hexDigits (w : OpWord) : List (BitVec 4) := [w.extractLsb' 8 4, w.extractLsb' 4 4, w.extractLsb' 0 4]

/-- A character between the words of a line; R83 names none, and blanks and tabs separate here (log entry 16). -/
def isBlank (c : Char) : Bool := c == ' ' || c == '\t'

/-- "`;` starts a comment to the end of the line" (R83). -/
def withoutComment (cs : List Char) : List Char := cs.takeWhile (fun c => c != ';')

/-- The words of a line, `word` being the part of the current one already read, last character first. -/
def wordsFrom (word : List Char) : List Char → List (List Char)
  | [] => if word.isEmpty then [] else [word.reverse]
  | c :: cs =>
    if isBlank c then
      if word.isEmpty then wordsFrom [] cs else word.reverse :: wordsFrom [] cs
    else wordsFrom (c :: word) cs

/-- The value of a digit; hexadecimal letters in either case (log entry 16). -/
def digitValue (c : Char) : Option Nat :=
  let n := c.toNat
  if 0x30 ≤ n ∧ n ≤ 0x39 then some (n - 0x30)
  else if 0x41 ≤ n ∧ n ≤ 0x46 then some (n - 0x41 + 10)
  else if 0x61 ≤ n ∧ n ≤ 0x66 then some (n - 0x61 + 10)
  else none

/-- The number a row of digits spells in a base, after the digits whose value is `acc`. -/
def readDigits (base acc : Nat) : List Char → Option Nat
  | [] => some acc
  | c :: cs =>
    match digitValue c with
    | some d => if d < base then readDigits base (acc * base + d) cs else none
    | none => none

/-- "a number in hexadecimal (`0xAA`) or decimal (`170`)" (R83). -/
def readNumber : List Char → Option Nat
  | [] => none
  | '0' :: 'x' :: d :: ds => readDigits 16 0 (d :: ds)
  | d :: ds => readDigits 10 0 (d :: ds)

/-- The mnemonics as they are spelled (R81). -/
def mnemonicNames : List (List Char × Mnemonic) :=
  [("RX_BYTE".toList, .RX_BYTE), ("RX_FLUSH".toList, .RX_FLUSH), ("TX_PUSH".toList, .TX_PUSH),
   ("TX_SEND".toList, .TX_SEND), ("TX_CLEAR".toList, .TX_CLEAR), ("TX_EMIT".toList, .TX_EMIT),
   ("RESET".toList, .RESET)]

/-- The command names as they are spelled (R73). -/
def commandNames : List (List Char × CommandName) :=
  [("SET_DRIVE".toList, .SET_DRIVE), ("GET_DRIVES".toList, .GET_DRIVES), ("ENCODE_EVENT".toList, .ENCODE_EVENT),
   ("GET_TRUST".toList, .GET_TRUST), ("GET_PERSONALITY".toList, .GET_PERSONALITY),
   ("RESET_PERSONALITY".toList, .RESET_PERSONALITY), ("PING".toList, .PING)]

/-- An operand: the name of a command or a number (R83). -/
def readOperand (cs : List Char) : Option AsmOperand :=
  match commandNames.lookup cs with
  | some c => some (.name c)
  | none => (readNumber cs).map AsmOperand.number

/-- The line a text spells: one operation, "the mnemonic of rule R81, then" its operand (R83). -/
def readLine (text : List Char) : Option AsmLine :=
  match wordsFrom [] (withoutComment text) with
  | [m] => (mnemonicNames.lookup m).map (fun x => ⟨x, none⟩)
  | [m, o] =>
    match mnemonicNames.lookup m, readOperand o with
    | some x, some y => some ⟨x, some y⟩
    | _, _ => none
  | _ => none

/-- The operation word of a line of text; none for a text that is no line of the syntax. -/
def assembleText (text : String) : Option OpWord :=
  match readLine text.toList with
  | some l => assemble l
  | none => none

/-- A program: operations, pseudo-operations (R84), and sequences of them. -/
inductive Pseudo where
  | op (i : Instr)
  | rxBytes (bs : List Byte)
  | rxFrame (c : Byte) (payload : List Byte)
  | txFrame (c : Byte) (payload : List Byte)
  | txDrain (n : Nat)
  | repeatOps (n : Nat) (body : Pseudo)
  | seq (first second : Pseudo)
  deriving DecidableEq, Repr

/-- `n` consecutive copies of a sequence. -/
def copies (n : Nat) (is : List Instr) : List Instr := (List.replicate n is).flatten

/-- The expansion of R84. RX_FRAME's bytes are `frame_bytes` of R79 and depend on the checksum parameters; it has no
expansion for a payload that is too large. -/
def expand (p : CkParams) : Pseudo → Option (List Instr)
  | .op i => some [i]
  | .rxBytes bs => some (bs.map Instr.rxByte)
  | .rxFrame c payload => (frameBytes p c payload).map (List.map Instr.rxByte)
  | .txFrame c payload => some (payload.map Instr.txPush ++ [Instr.txSend c])
  | .txDrain n => some (List.replicate n Instr.txEmit)
  | .repeatOps n body => (expand p body).map (copies n)
  | .seq first second =>
    match expand p first, expand p second with
    | some a, some b => some (a ++ b)
    | _, _ => none

end Sys2Proof.Machine
end

