-- ==== Sys2Proof/Machine/Parametric.lean ====
section
/-! DEFINITION. exec and step with the checksum parameters as an argument: "A model takes the checksum parameters as
arguments of the step relation" (10_state.md R41). exec and step are these at `Config.ck`, the block's own. -/

namespace Sys2Proof.Machine

/-- An operation under parameters `p`. Only RX_BYTE and TX_EMIT read them. -/
def execWith (p : CkParams) (i : Instr) (s : State) : Host.Outcome State Fault Refusal :=
  match i with
  | .rxByte b => rxByteWith p b s
  | .rxFlush => execRxFlush s
  | .txPush b => execTxPush b s
  | .txSend c => execTxSend c s
  | .txClear => execTxClear s
  | .txEmit => txEmitWith p s
  | .reset => execReset s
  | .setDrive => execSetDrive s
  | .getDrives => execGetDrives s
  | .encodeEvent => execEncodeEvent s
  | .getTrust => execGetTrust s
  | .getPersonality => execGetPersonality s
  | .resetPersonality => execResetPersonality s
  | .ping => execPing s

/-- One step of a block built with parameters `p`. -/
def stepWith (p : CkParams) (s : State) : Host.Outcome State Fault Refusal :=
  match fetch s with
  | .nothing s' => .next s'.rest
  | .operation i s' => execWith p i s'
  | .reserved r => .refused (refusalOf r)

end Sys2Proof.Machine
end

