-- ==== Sys2Proof/Machine/Run.lean ====
section
/-! DEFINITION. A run as the spec observes it: a finite sequence of operations, its step outputs in step order and
the final state (00_scope.md R7). -/

namespace Sys2Proof.Machine

/-- The output a step contributes to the observation: a held operation has no step and contributes none
(60_exceptions.md R185). -/
def stepOuts (t : State) : List Out :=
  match t.handshake with
  | .performed => [t.out]
  | .held => []
  | .idle => []

/-- Apply a sequence of operations, each by `f`; the step outputs in order and the final state, or none where an
operation faults (R7). -/
def runBy (f : Instr → State → Host.Outcome State Fault Refusal) : List Instr → State → Option (List Out × State)
  | [], s => some ([], s)
  | i :: is, s =>
    match f i s with
    | .next t =>
      match runBy f is t with
      | some (outs, u) => some (stepOuts t ++ outs, u)
      | none => none
    | .fault _ => none
    | .refused _ => none

/-- The observation of a sequence of operations (R7). -/
def observe (ops : List Instr) (s : State) : Option (List Out × State) := runBy exec ops s

/-- The observation of a sequence of operations by a block built with parameters `p` (10_state.md R41). -/
def observeWith (p : CkParams) (ops : List Instr) (s : State) : Option (List Out × State) :=
  runBy (execWith p) ops s

/-- RX_BYTE of each byte in turn, under parameters `p`. -/
def observeRxWith (p : CkParams) (bs : List Byte) (s : State) : Option (List Out × State) :=
  observeWith p (bs.map .rxByte) s

/-- The frame events other than None of an observation, in order (20_memory.md R58). -/
def eventsOf (outs : List Out) : List FrameEvent :=
  (outs.map Out.rxEv).filter (fun e => decide (e ≠ .none))

/-- The bytes an observation puts on the TX line, in order (R58). -/
def bytesOf (outs : List Out) : List Byte := outs.filterMap Out.txByte

/-- The transmit errors other than None of an observation, in order. -/
def errorsOf (outs : List Out) : List TxError := (outs.map Out.txErr).filter (fun e => decide (e ≠ .none))

/-- An RX_BYTE that is a start marker: 0xAA in AwaitStart, and nowhere else (30_encoding.md R77). -/
def startsFrame (i : Instr) (s : State) : Bool :=
  decide (i = .rxByte Config.start) && decide (s.rx.state = .awaitStart)

/-- The RXB index an operation writes (20_memory.md R50, 41_parser_rx.md R135). -/
def rxbStore (i : Instr) (s : State) : Option Nat :=
  match i, s.rx.state with
  | .rxByte _, .readPayload => some s.rx.index.toNat
  | _, _ => none

/-- The TXB index an operation writes (R50, 40_framer_tx.md R101). -/
def txbStore (i : Instr) (s : State) : Option Nat :=
  match i, s.tx.phase with
  | .txPush _, .idle => if s.tx.full then none else some s.tx.len.toNat
  | _, _ => none

/-- An operation that clears the pushed payload, the writes of tx_len that 10_state.md R28 calls "cleared": TX_CLEAR,
a TX_SEND that fails, the TX_EMIT of CHECKSUM, and RESET. -/
def clearsPayload (i : Instr) (s : State) : Bool :=
  decide (i = .reset) || (decide (i = .txEmit) && decide (s.tx.phase = .ck)) ||
    (decide (s.tx.phase = .idle) && (decide (i = .txClear) || ((commandOf i).isSome && s.tx.ovf)))

/-- The RXB indices written since the last start marker (or RESET), after an operation; `w` are those before it. -/
def rxSince (w : List Nat) (i : Instr) (s : State) : List Nat :=
  if i = .reset ∨ startsFrame i s then [] else (rxbStore i s).toList ++ w

/-- The TXB indices written since the last clear, after an operation; `w` are those before it. -/
def txSince (w : List Nat) (i : Instr) (s : State) : List Nat :=
  if clearsPayload i s then [] else (txbStore i s).toList ++ w

/-- `since` followed through a run. -/
def sinceAfter (since : List Nat → Instr → State → List Nat) : List Nat → List Instr → State → List Nat
  | w, [], _ => w
  | w, i :: is, s =>
    match exec i s with
    | .next t => sinceAfter since (since w i s) is t
    | .fault _ => w
    | .refused _ => w

end Sys2Proof.Machine
end

