-- ==== Sys2Proof/Machine/Cycle.lean ====
section
/-! DEFINITION. Operations offered in one clock cycle (60_exceptions.md R187): an implementation must give the result
of applying them one after another in the order written here. -/

namespace Sys2Proof.Machine

/-- The one operation the transmit producer may offer in a cycle (R187). -/
inductive ProducerOp where
  | push (b : Byte)
  | send (c : Byte)
  | clear
  deriving DecidableEq, Repr

/-- What is offered in one cycle: at most one operation at each port (R187). -/
structure CycleOffer where
  reset : Bool
  flush : Bool
  rx : Option Byte
  emit : Bool
  producer : Option ProducerOp
  deriving DecidableEq, Repr

/-- The producer's operation as an instruction. -/
def producerInstr : ProducerOp → Instr
  | .push b => .txPush b
  | .send c => .txSend c
  | .clear => .txClear

/-- The receive-path part of a cycle: RX_FLUSH, then RX_BYTE (R187). -/
def cycleRx (k : CycleOffer) : List Instr :=
  (if k.flush then [.rxFlush] else []) ++ (match k.rx with | some b => [.rxByte b] | none => [])

/-- The transmit-path part of a cycle: TX_EMIT, then the producer's operation, "whose enabling condition is
evaluated on the state at the start of the cycle" (R187). -/
def cycleTx (k : CycleOffer) (s : State) : List Instr :=
  (if k.emit then [.txEmit] else []) ++
    (match k.producer with
      | some op => if enabled (producerInstr op) s then [producerInstr op] else []
      | none => [])

/-- The operations of a cycle in the order of R187; RESET discards every other one. R187 orders the operations of each
path and leaves the two paths "independently": that the receive path's come first is DESIGN CHOICE, log entry 21. -/
def cycleOps (k : CycleOffer) (s : State) : List Instr :=
  if k.reset then [.reset] else cycleRx k ++ cycleTx k s

/-- One cycle: its operations one after another. -/
def execCycle (k : CycleOffer) (s : State) : Option (List Out × State) := observe (cycleOps k s) s

/-- The outputs of a cycle taken together: each field is set by at most one of its operations (R36, R187). -/
def cycleOut (outs : List Out) : Out :=
  outs.foldl (fun o x =>
    { rxEv := if x.rxEv = .none then o.rxEv else x.rxEv,
      txByte := if x.txByte = none then o.txByte else x.txByte,
      txErr := if x.txErr = .none then o.txErr else x.txErr }) Out.quiet

end Sys2Proof.Machine
end

