-- ==== Sys2Proof/Safety.lean ====
section
/-! DEFINITION. What counts as a safe state: the invariants of both paths (10_state.md R37, R38), the incremental
checksum (42_integrity.md R167) and the canonical form of the buffers. -/

namespace Sys2Proof.Machine

/-- Payload bytes of the partial frame received so far, `rx_len - rx_rem` (R37). -/
def RxPath.received (r : RxPath) : Nat := r.len.toNat - r.rem.toNat

/-- Indices 0..n-1 of a buffer have been written. -/
def Memory.writtenTo (m : Memory) (n : Nat) : Prop := ∀ i, i < n → Memory.read? m i ≠ none

/-- The receive-path invariants of R37 as far as a state shows them: of the written bytes, that they were written since
the last RESET. That they were written since the last start marker is `RxSince`, over runs. -/
structure RxInv (r : RxPath) : Prop where
  readCmd : r.state = .readCmd → r.rem = r.len
  readPayload : r.state = .readPayload → 1 ≤ r.rem.toNat ∧ r.rem.toNat ≤ r.len.toNat
  readChecksum : r.state = .readChecksum → r.rem = 0x0000#16
  written : r.state = .readPayload ∨ r.state = .readChecksum → Memory.writtenTo r.buf r.received

/-- R167 in the parser: rx_acc is the fold of ck_step over the covered bytes received so far. -/
structure RxChecksum (p : CkParams) (draw : Nat) (r : RxPath) : Prop where
  readLenHi : r.state = .readLenHi → r.acc = p.init
  readLenLo : r.state = .readLenLo → loByte r.len = 0x00#8 ∧ r.acc = ckFold p p.init [hiByte r.len]
  readCmd : r.state = .readCmd → r.acc = ckFold p p.init [hiByte r.len, loByte r.len]
  payload : r.state = .readPayload ∨ r.state = .readChecksum →
    r.acc = ckFold p p.init (header r.len r.cmd ++ memReadTo draw .rxb r.buf r.received)

/-- The transmit-path invariants of R38 as far as a state shows them, and that tx_idx is 0 until the first payload byte
is emitted. That the written bytes were written since the last clear is `TxSince`, over runs. -/
structure TxInv (t : TxPath) : Prop where
  overflow : t.ovf = true → t.len = 0xFFFF#16 ∧ t.phase = .idle
  payload : t.phase = .payload → t.idx.toNat < t.len.toNat
  ck : t.phase = .ck → t.idx = t.len
  beforePayload : t.phase = .start ∨ t.phase = .lenHi ∨ t.phase = .lenLo ∨ t.phase = .cmd → t.idx = 0x0000#16
  written : Memory.writtenTo t.buf t.len.toNat

/-- The last invariant of R37: in ReadPayload and ReadChecksum the indices 0 .. rx_len - rx_rem - 1 of RXB are among
`w`, those written since the last start marker (`rxSince`). -/
def RxSince (w : List Nat) (r : RxPath) : Prop :=
  r.state = .readPayload ∨ r.state = .readChecksum → ∀ i, i < r.received → i ∈ w

/-- The last invariant of R38: the indices 0 .. tx_len - 1 of TXB are among `w`, those written since the last clear
(`txSince`). -/
def TxSince (w : List Nat) (t : TxPath) : Prop := ∀ i, i < t.len.toNat → i ∈ w

/-- R167 in the framer: tx_acc is the fold of ck_step over the covered bytes emitted so far. -/
structure TxChecksum (p : CkParams) (draw : Nat) (t : TxPath) : Prop where
  lenHi : t.phase = .lenHi → t.acc = p.init
  lenLo : t.phase = .lenLo → t.acc = ckFold p p.init [hiByte t.len]
  cmd : t.phase = .cmd → t.acc = ckFold p p.init [hiByte t.len, loByte t.len]
  payload : t.phase = .payload ∨ t.phase = .ck →
    t.acc = ckFold p p.init (header t.len t.cmd ++ memReadTo draw .txb t.buf t.idx.toNat)

/-- The invariant of the block. -/
structure State.Inv (s : State) : Prop where
  rx : RxInv s.rx
  rxChecksum : RxChecksum Config.ck s.draws s.rx
  tx : TxInv s.tx
  txChecksum : TxChecksum Config.ck s.draws s.tx
  rxb : Memory.wf s.rx.buf = true
  txb : Memory.wf s.tx.buf = true

/-- A step that does not fault: it answers a next state or refuses a word that spells no operation. -/
def State.stepSafe (s : State) : Prop := ∀ f, step s ≠ .fault f

/-- How many further RX_BYTE operations bring the parser back to AwaitStart at the latest (41_parser_rx.md R143). -/
def RxPath.recoveryBound (r : RxPath) : Nat :=
  match r.state with
  | .awaitStart => 0
  | .readLenHi => 65539
  | .readLenLo => 65538
  | .readCmd => r.len.toNat + 2
  | .readPayload => r.rem.toNat + 1
  | .readChecksum => 1

end Sys2Proof.Machine
end

