-- ==== Sys2Proof/Certificates/Slice0/Obligations.lean ====
section
/-! DEFINITION. The statements for the provers, each formalising what a rule of spec/ says the block does. -/

section
open Sys2Proof Sys2Proof.Machine

-- Encoding -----------------------------------------------------------------------------------------------

/-- Decoding the encoding of any well-formed instruction gives it back, with every operand at every value
(30_encoding.md R73, R80, R81). -/
def Obligations.EncodeDecodeRoundTrip : Prop :=
  ∀ i : Instr, i.wellFormed = true → decode (encode i) = .ok i

/-- A word that decodes is the encoding of what it decodes to: no operation has two words and no bit of a word
is ignored (R80, R81). -/
def Obligations.DecodedWordReencodes : Prop :=
  ∀ (w : OpWord) (i : Instr), decode (.word w) = .ok i → encode i = .word w

/-- R82 and R184: a word with OP 0x0 or 0x8..0xF, or with OP 0x2, 0x5, 0x6, 0x7 and DATA other than 0x00, is
refused by the step that meets it, under the name of the check it fails, and every other word spells an
operation. -/
def Obligations.ReservedWordsRefused : Prop :=
  ∀ (w : OpWord),
    (w.toNat / 256 = 0 ∨ 8 ≤ w.toNat / 256 →
      ∀ (s : State) (a : Agent) (ts : List Agent) (os : List Offer),
        s.agents.turns = a :: ts → s.agents.pending a = .word w :: os →
          step s = .refused (.reservedOp (opField w))) ∧
    ((w.toNat / 256 = 2 ∨ w.toNat / 256 = 5 ∨ w.toNat / 256 = 6 ∨ w.toNat / 256 = 7) ∧ w.toNat % 256 ≠ 0 →
      ∀ (s : State) (a : Agent) (ts : List Agent) (os : List Offer),
        s.agents.turns = a :: ts → s.agents.pending a = .word w :: os →
          step s = .refused (.reservedData (opField w) (dataField w))) ∧
    (¬ (w.toNat / 256 = 0 ∨ 8 ≤ w.toNat / 256) →
      ¬ ((w.toNat / 256 = 2 ∨ w.toNat / 256 = 5 ∨ w.toNat / 256 = 6 ∨ w.toNat / 256 = 7) ∧ w.toNat % 256 ≠ 0) →
        ∃ i, decode (.word w) = .ok i)

/-- The words of 95_test_vectors.md OW-1 to OW-6 decode to what they stand for or are refused. That a command code of
R73, offered by itself, decodes to an instruction of its own is the model's choice (log entry 3). -/
def Obligations.SampleWordsDecode : Prop :=
  decode (.word 0x1AA#12) = .ok (.rxByte 0xAA#8) ∧ decode (.word 0x200#12) = .ok .rxFlush ∧
  decode (.word 0x305#12) = .ok (.txPush 0x05#8) ∧ decode (.word 0x401#12) = .ok (.txSend 0x01#8) ∧
  decode (.word 0x400#12) = .ok (.txSend 0x00#8) ∧ decode (.word 0x500#12) = .ok .txClear ∧
  decode (.word 0x600#12) = .ok .txEmit ∧ decode (.word 0x700#12) = .ok .reset ∧
  decode (.word 0x000#12) = .error (.reservedOp 0x0#4) ∧ decode (.word 0x0FF#12) = .error (.reservedOp 0x0#4) ∧
  decode (.word 0x800#12) = .error (.reservedOp 0x8#4) ∧ decode (.word 0xF00#12) = .error (.reservedOp 0xF#4) ∧
  decode (.word 0xFFF#12) = .error (.reservedOp 0xF#4) ∧
  decode (.word 0x201#12) = .error (.reservedData 0x2#4 0x01#8) ∧
  decode (.word 0x5FF#12) = .error (.reservedData 0x5#4 0xFF#8) ∧
  decode (.word 0x680#12) = .error (.reservedData 0x6#4 0x80#8) ∧
  decode (.word 0x701#12) = .error (.reservedData 0x7#4 0x01#8) ∧
  decode (.command 0x01#8) = .ok .setDrive ∧ decode (.command 0x02#8) = .ok .getDrives ∧
  decode (.command 0x10#8) = .ok .encodeEvent ∧ decode (.command 0x11#8) = .ok .getTrust ∧
  decode (.command 0x20#8) = .ok .getPersonality ∧ decode (.command 0x21#8) = .ok .resetPersonality ∧
  decode (.command 0x30#8) = .ok .ping

/-- The model's choice (log entries 3 and 4): a TX_SEND named by its COMMAND byte is the TX_SEND word with that
byte, for all 256 values, as `TX_SEND SET_DRIVE` = `TX_SEND 0x01` (R83) and "for all 256 values" (R72) ask. -/
def Obligations.EveryCommandByteSendsAlike : Prop :=
  ∀ c : Byte, ∃ i, decode (.command c) = .ok i ∧ ∀ s, exec i s = exec (.txSend c) s

-- Steps --------------------------------------------------------------------------------------------------

/-- A step runs the decoded operation: the agent whose turn it is offers its oldest operation; its turn is used
up, and the operation leaves the agent's list exactly when it is enabled (R6, R185; log entry 5). -/
def Obligations.StepRunsDecodedOperation : Prop :=
  ∀ (s : State) (a : Agent) (ts : List Agent) (o : Offer) (os : List Offer) (i : Instr),
    s.agents.turns = a :: ts → s.agents.pending a = o :: os → decode o = .ok i → i.wellFormed = true →
      step s = exec i (if enabled i s then (s.withTurns ts).withPending a os else s.withTurns ts) ∧
      ((s.withTurns ts).withPending a os).agents.pending a = os ∧
      ((s.withTurns ts).withPending a os).agents.turns = ts ∧
      (s.withTurns ts).agents.pending a = o :: os ∧ (s.withTurns ts).agents.turns = ts

/-- The model's choice (log entry 6): where no agent has the next turn, or the one that has offers nothing, the
step changes no register and outputs nothing, and uses the turn up. -/
def Obligations.StepWithoutOfferRests : Prop :=
  ∀ s : State,
    (s.agents.turns = [] → step s = .next { s with out := Out.quiet, handshake := .idle }) ∧
    (∀ a ts, s.agents.turns = a :: ts → s.agents.pending a = [] →
      step s = .next { s with out := Out.quiet, handshake := .idle, agents := { s.agents with turns := ts } })

/-- R185: an operation that is not enabled leaves both paths and outputs nothing. That in a step it stays its agent's
oldest operation is the model's reading of "the agent offering it waits" (log entry 5, DEDUCED). The producer's operations are held exactly while a frame is in progress and TX_EMIT exactly
while none is; RX_BYTE, RX_FLUSH and RESET never are. -/
def Obligations.HeldOperationsWait : Prop :=
  ∀ (i : Instr) (s : State),
    (enabled i s = false → exec i s = .next { s with out := Out.quiet, handshake := .held }) ∧
    (enabled i s = false → ∀ a ts o os t, s.agents.turns = a :: ts → s.agents.pending a = o :: os →
      decode o = .ok i → step s = .next t →
        t.rx = s.rx ∧ t.tx = s.tx ∧ t.out = Out.quiet ∧ t.agents.pending a = o :: os) ∧
    (enabled i s = true → ∀ t, exec i s = .next t → t.handshake = .performed) ∧
    (agentOf i = .txProducer → (enabled i s = true ↔ s.tx.phase = .idle)) ∧
    (agentOf i = .txLine → (enabled i s = true ↔ s.tx.phase ≠ .idle)) ∧
    (agentOf i ≠ .txProducer → agentOf i ≠ .txLine → enabled i s = true)

/-- What lifts a hold (R185): the TX_EMIT that emits CHECKSUM and RESET end a frame in progress, and a TX_SEND
that starts a frame begins one. -/
def Obligations.HoldsAreLifted : Prop :=
  ∀ s : State,
    (s.tx.phase = .ck → ∃ t, exec .txEmit s = .next t ∧ ∀ b, enabled (.txPush b) t = true) ∧
    (∃ t, exec .reset s = .next t ∧ ∀ b, enabled (.txPush b) t = true) ∧
    (s.tx.phase = .idle → s.tx.ovf = false → ∀ c, ∃ t, exec (.txSend c) s = .next t ∧ enabled .txEmit t = true) ∧
    (∀ i t, exec i s = .next t → s.tx.phase ≠ .idle → t.tx.phase = .idle →
      (i = .txEmit ∧ s.tx.phase = .ck) ∨ i = .reset)

-- Receive path -------------------------------------------------------------------------------------------

/-- Arm AwaitStart (41_parser_rx.md R131): 0xAA loads CK_INIT and goes to ReadLenHi, any other byte changes no
register; the event is None in both cases. -/
def Obligations.RxAwaitStartArm : Prop :=
  ∀ (s : State) (b : Byte), s.rx.state = .awaitStart →
    exec (.rxByte b) s = .next { s with
      rx := if b = 0xAA#8 then { s.rx with acc := Config.ck.init, state := .readLenHi } else s.rx,
      out := ⟨.none, none, .none⟩, handshake := .performed }

/-- Arm ReadLenHi (R132): rx_len takes the byte in bits 15..8 and 0 in bits 7..0. -/
def Obligations.RxReadLenHiArm : Prop :=
  ∀ (s : State) (b : Byte), s.rx.state = .readLenHi →
    exec (.rxByte b) s = .next { s with
      rx := { s.rx with len := b ++ 0x00#8, acc := ckStep Config.ck s.rx.acc b, state := .readLenLo },
      out := ⟨.none, none, .none⟩, handshake := .performed }

/-- Arm ReadLenLo (R133): rx_len takes the byte by OR and rx_rem the completed LENGTH, which is big-endian. -/
def Obligations.RxReadLenLoArm : Prop :=
  (∀ (s : State) (b : Byte), s.rx.state = .readLenLo →
    exec (.rxByte b) s = .next { s with
      rx := { s.rx with len := s.rx.len ||| b.setWidth 16, rem := s.rx.len ||| b.setWidth 16,
                        acc := ckStep Config.ck s.rx.acc b, state := .readCmd },
      out := ⟨.none, none, .none⟩, handshake := .performed }) ∧
  (∀ (s : State) (hi lo : Byte), s.rx.state = .readLenHi →
    ∃ t u, exec (.rxByte hi) s = .next t ∧ exec (.rxByte lo) t = .next u ∧
      u.rx.len = hi ++ lo ∧ u.rx.rem = hi ++ lo ∧ u.rx.state = .readCmd)

/-- Arm ReadCmd (R134): the COMMAND value is stored unchecked, and an empty payload skips ReadPayload. -/
def Obligations.RxReadCmdArm : Prop :=
  ∀ (s : State) (b : Byte), s.rx.state = .readCmd →
    exec (.rxByte b) s = .next { s with
      rx := { s.rx with cmd := b, acc := ckStep Config.ck s.rx.acc b,
                        state := if s.rx.len = 0#16 then .readChecksum else .readPayload },
      out := ⟨.none, none, .none⟩, handshake := .performed }

/-- Arm ReadPayload (R135): the byte is stored at index rx_len - rx_rem, which is not 0xFFFF; over a whole payload
the indices run 0, 1, ..., so payload element i is stored at RXB[i]. -/
def Obligations.RxReadPayloadArm : Prop :=
  (∀ (s : State) (b : Byte), s.rx.state = .readPayload → s.rx.len - s.rx.rem ≠ 0xFFFF#16 →
    exec (.rxByte b) s = .next { s with
      rx := { s.rx with buf := Memory.write s.rx.buf (s.rx.len - s.rx.rem).toNat b, rem := s.rx.rem - 1#16,
                        acc := ckStep Config.ck s.rx.acc b,
                        state := if s.rx.rem - 1#16 = 0#16 then .readChecksum else .readPayload },
      out := ⟨.none, none, .none⟩, handshake := .performed }) ∧
  (∀ (s : State) (payload : List Byte), s.rx.state = .readPayload → s.rx.rem = s.rx.len →
    payload.length = s.rx.len.toNat → payload ≠ [] →
      ∃ t, observe (payload.map .rxByte) s = some (List.replicate payload.length Out.quiet, t) ∧
        t.rx.state = .readChecksum ∧ t.rx.rem = 0#16 ∧ t.rx.len = s.rx.len ∧ t.rx.cmd = s.rx.cmd ∧
        memReadTo t.draws .rxb t.rx.buf t.rx.len.toNat = payload ∧
        t.rx.acc = ckFold Config.ck s.rx.acc payload)

/-- Arm ReadChecksum (R136): rx_state returns to AwaitStart in every case; the event is FrameReady with a copy of
the first rx_len bytes of RXB, or Corrupt; and under the invariant the comparison is the verification of
42_integrity.md R166. -/
def Obligations.RxReadChecksumArm : Prop :=
  ∀ (s : State) (b : Byte), s.rx.state = .readChecksum →
    exec (.rxByte b) s = .next { s with
      rx := { s.rx with state := .awaitStart },
      out := ⟨if b = ckFinal Config.ck s.rx.acc
              then .frameReady ⟨s.rx.cmd, (List.range s.rx.len.toNat).map (memRead s.draws .rxb s.rx.buf)⟩
              else .corrupt, none, .none⟩,
      handshake := .performed } ∧
    (s.Inv → (b = ckFinal Config.ck s.rx.acc ↔
      b = checksum Config.ck ([hiByte s.rx.len, loByte s.rx.len, s.rx.cmd] ++
        (List.range s.rx.len.toNat).map (memRead s.draws .rxb s.rx.buf))))

/-- RX_FLUSH (R139): word 0x200; it writes rx_state only, outputs no event and is never held. -/
def Obligations.RxFlushWritesOnlyTheState : Prop :=
  decode (.word 0x200#12) = .ok .rxFlush ∧
  ∀ s : State, enabled .rxFlush s = true ∧
    exec .rxFlush s = .next { s with
      rx := { s.rx with state := .awaitStart }, out := ⟨.none, none, .none⟩, handshake := .performed }

/-- A frame leaves the block only in the FrameReady of the RX_BYTE that verifies it (R138), and under the
invariant its checksum is the one of R165 over what it delivers. -/
def Obligations.DeliveredFramesVerify : Prop :=
  ∀ (i : Instr) (s t : State) (f : Frame), exec i s = .next t → t.out.rxEv = .frameReady f →
    ∃ b, i = .rxByte b ∧ s.rx.state = .readChecksum ∧ b = ckFinal Config.ck s.rx.acc ∧
      f.command = s.rx.cmd ∧ f.payload = memReadTo s.draws .rxb s.rx.buf s.rx.len.toNat ∧
      (s.Inv → f.payload.length = s.rx.len.toNat ∧ b = checksum Config.ck (frameBody f.command f.payload))

/-- Corrupt (60_exceptions.md R181): raised exactly by an RX_BYTE in ReadChecksum whose byte is not
ck_final(rx_acc); its whole effect is rx_state <- AwaitStart and the event, which records nothing. -/
def Obligations.CorruptRecordsNothing : Prop :=
  ∀ (i : Instr) (s t : State), exec i s = .next t →
    (t.out.rxEv = .corrupt ↔
      ∃ b, i = .rxByte b ∧ s.rx.state = .readChecksum ∧ b ≠ ckFinal Config.ck s.rx.acc) ∧
    (t.out.rxEv = .corrupt → t = { s with rx := { s.rx with state := .awaitStart },
                                          out := ⟨.corrupt, none, .none⟩, handshake := .performed })

/-- Round trip (R140): from AwaitStart the bytes of frame_bytes(c, p) give None for all but the last and
FrameReady({c, p}) for the last, and the parser is in AwaitStart again. -/
def Obligations.FrameRoundTrip : Prop :=
  ∀ (s : State) (c : Byte) (payload wire : List Byte), s.rx.state = .awaitStart →
    frameBytes Config.ck c payload = some wire →
      ∃ t, observe (wire.map .rxByte) s =
          some (List.replicate (payload.length + 4) Out.quiet ++ [emitRx (.frameReady ⟨c, payload⟩)], t) ∧
        t.rx.state = .awaitStart ∧ t.tx = s.tx

/-- Noise (R141): bytes without 0xAA before a frame give no event, and the frame is then delivered. -/
def Obligations.NoiseThenFrame : Prop :=
  ∀ (s : State) (c : Byte) (noise payload wire : List Byte), s.rx.state = .awaitStart → 0xAA#8 ∉ noise →
    frameBytes Config.ck c payload = some wire →
      ∃ t, observe ((noise ++ wire).map .rxByte) s =
          some (List.replicate (noise.length + payload.length + 4) Out.quiet ++
            [emitRx (.frameReady ⟨c, payload⟩)], t) ∧
        t.rx.state = .awaitStart

/-- Concatenated frames (R144): frames with noise without 0xAA after each of them give exactly their FrameReady
events, in order, each at its frame's CHECKSUM byte. Each entry is a command, a payload and the noise after the
frame. -/
def Obligations.ConcatenatedFrames : Prop :=
  ∀ (s : State) (frames : List (Byte × List Byte × List Byte)), s.rx.state = .awaitStart →
    (∀ f ∈ frames, f.2.1.length ≤ 65535 ∧ 0xAA#8 ∉ f.2.2) →
      ∃ outs t, observe ((frames.flatMap fun f =>
            (frameBytes Config.ck f.1 f.2.1).getD [] ++ f.2.2).map .rxByte) s = some (outs, t) ∧
        outs = (frames.flatMap fun f => List.replicate (f.2.1.length + 4) Out.quiet ++
          emitRx (.frameReady ⟨f.1, f.2.1⟩) :: List.replicate f.2.2.length Out.quiet) ∧
        eventsOf outs = frames.map (fun f => .frameReady ⟨f.1, f.2.1⟩) ∧ t.rx.state = .awaitStart

/-- The parser never wedges (R143): from any state with the invariant of R37, whatever the bytes, it is back in
AwaitStart after at most the stated number of RX_BYTE operations, and RX_FLUSH returns it at once. -/
def Obligations.ParserNeverWedges : Prop :=
  ∀ s : State, RxInv s.rx →
    (∀ bytes : List Byte, bytes.length = s.rx.recoveryBound →
      ∃ k outs t, k ≤ s.rx.recoveryBound ∧ observe ((bytes.take k).map .rxByte) s = some (outs, t) ∧
        t.rx.state = .awaitStart) ∧
    (∃ t, exec .rxFlush s = .next t ∧ t.rx.state = .awaitStart)

/-- A delivered payload stays in RXB for the next four bytes (70_reset_and_hazards.md R214): from AwaitStart no
RX_BYTE before the fifth writes RXB. -/
def Obligations.FourBytesLeaveTheReceiveBuffer : Prop :=
  ∀ (s t : State) (bytes : List Byte) (outs : List Out), s.rx.state = .awaitStart → bytes.length ≤ 4 →
    observe (bytes.map .rxByte) s = some (outs, t) → t.rx.buf = s.rx.buf ∧ t.draws = s.draws

/-- Single-bit corruption in COMMAND, PAYLOAD or CHECKSUM (R142, first case), for any checksum parameters with CK_POLY
other than 0x00: the frame with bit j of byte k inverted, k at offset 3 or later, gives no event but Corrupt, at its
last byte. With `Config.ck` for the parameters this is what RX_BYTE itself does (`observe_rxBytes` of Laws/Exec.lean). -/
def Obligations.SingleBitFlipIsCorrupt : Prop :=
  ∀ (p : CkParams) (s : State) (c : Byte) (payload wire : List Byte) (k j : Nat) (b : Byte),
    p.poly ≠ 0x00#8 → s.rx.state = .awaitStart → frameBytes p c payload = some wire →
      3 ≤ k → wire[k]? = some b → j < 8 →
        ∃ t, observeRxWith p (wire.set k (b ^^^ (1#8 <<< j))) s =
            some (List.replicate (payload.length + 4) Out.quiet ++ [emitRx .corrupt], t) ∧
          t.rx.state = .awaitStart

-- Transmit path ------------------------------------------------------------------------------------------

/-- TX_PUSH (40_framer_tx.md R101): word 0x3bb; held while a frame is in progress; stores the byte at tx_len, or
sets tx_ovf and drops it where the buffer already holds 65535 bytes. -/
def Obligations.TxPushAppends : Prop :=
  ∀ (s : State) (b : Byte),
    decode (.word (0x3#4 ++ b)) = .ok (.txPush b) ∧
    (s.tx.phase ≠ .idle → exec (.txPush b) s = .next { s with out := Out.quiet, handshake := .held }) ∧
    (s.tx.phase = .idle →
      exec (.txPush b) s = .next { s with
        tx := if s.tx.len = 65535#16 then { s.tx with ovf := true }
              else { s.tx with buf := Memory.write s.tx.buf s.tx.len.toNat b, len := s.tx.len + 1#16 },
        out := ⟨.none, none, .none⟩, handshake := .performed }) ∧
    (s.tx.len ≠ 65535#16 → (s.tx.len + 1#16).toNat = s.tx.len.toNat + 1)

/-- TX_SEND (R102): word 0x4cc; held while a frame is in progress; starts the frame, or with tx_ovf set raises
PayloadTooLarge, discards the payload and stays Idle. -/
def Obligations.TxSendStartsOrFails : Prop :=
  ∀ (s : State) (c : Byte),
    decode (.word (0x4#4 ++ c)) = .ok (.txSend c) ∧
    (s.tx.phase ≠ .idle → exec (.txSend c) s = .next { s with out := Out.quiet, handshake := .held }) ∧
    (s.tx.phase = .idle → s.tx.ovf = true →
      exec (.txSend c) s = .next { s with
        tx := { s.tx with len := 0#16, ovf := false },
        out := ⟨.none, none, .payloadTooLarge⟩, handshake := .performed }) ∧
    (s.tx.phase = .idle → s.tx.ovf = false →
      exec (.txSend c) s = .next { s with
        tx := { s.tx with cmd := c, idx := 0#16, phase := .start },
        out := ⟨.none, none, .none⟩, handshake := .performed })

/-- TX_CLEAR (R103): word 0x500; held while a frame is in progress; tx_len <- 0, tx_ovf <- 0, TXB keeps its
bytes. -/
def Obligations.TxClearDiscards : Prop :=
  decode (.word 0x500#12) = .ok .txClear ∧
  ∀ s : State,
    (s.tx.phase ≠ .idle → exec .txClear s = .next { s with out := Out.quiet, handshake := .held }) ∧
    (s.tx.phase = .idle →
      exec .txClear s = .next { s with
        tx := { s.tx with len := 0#16, ovf := false },
        out := ⟨.none, none, .none⟩, handshake := .performed })

/-- TX_EMIT (R104): word 0x600; one arm per phase, held in Idle; in Payload for a tx_idx other than 0xFFFF. -/
def Obligations.TxEmitByPhase : Prop :=
  decode (.word 0x600#12) = .ok .txEmit ∧
  ∀ s : State,
    (s.tx.phase = .idle → exec .txEmit s = .next { s with out := Out.quiet, handshake := .held }) ∧
    (s.tx.phase = .start →
      exec .txEmit s = .next { s with
        tx := { s.tx with acc := Config.ck.init, phase := .lenHi },
        out := ⟨.none, some 0xAA#8, .none⟩, handshake := .performed }) ∧
    (s.tx.phase = .lenHi →
      exec .txEmit s = .next { s with
        tx := { s.tx with acc := ckStep Config.ck s.tx.acc (s.tx.len.extractLsb' 8 8), phase := .lenLo },
        out := ⟨.none, some (s.tx.len.extractLsb' 8 8), .none⟩, handshake := .performed }) ∧
    (s.tx.phase = .lenLo →
      exec .txEmit s = .next { s with
        tx := { s.tx with acc := ckStep Config.ck s.tx.acc (s.tx.len.extractLsb' 0 8), phase := .cmd },
        out := ⟨.none, some (s.tx.len.extractLsb' 0 8), .none⟩, handshake := .performed }) ∧
    (s.tx.phase = .cmd →
      exec .txEmit s = .next { s with
        tx := { s.tx with acc := ckStep Config.ck s.tx.acc s.tx.cmd,
                          phase := if s.tx.len = 0#16 then .ck else .payload },
        out := ⟨.none, some s.tx.cmd, .none⟩, handshake := .performed }) ∧
    (s.tx.phase = .payload → s.tx.idx ≠ 0xFFFF#16 →
      exec .txEmit s = .next { s with
        tx := { s.tx with acc := ckStep Config.ck s.tx.acc (memRead s.draws .txb s.tx.buf s.tx.idx.toNat),
                          idx := s.tx.idx + 1#16,
                          phase := if s.tx.idx + 1#16 = s.tx.len then .ck else .payload },
        out := ⟨.none, some (memRead s.draws .txb s.tx.buf s.tx.idx.toNat), .none⟩,
        handshake := .performed }) ∧
    (s.tx.phase = .ck →
      exec .txEmit s = .next { s with
        tx := { s.tx with phase := .idle, len := 0#16, idx := 0#16 },
        out := ⟨.none, some (ckFinal Config.ck s.tx.acc), .none⟩, handshake := .performed })

/-- PayloadTooLarge (60_exceptions.md R182): raised exactly by an operation that sends a COMMAND (TX_SEND, and by the
model's choice of log entry 3 the command names) in Idle with tx_ovf set; no frame starts and the payload is gone. -/
def Obligations.PayloadTooLargeOnlyFromSend : Prop :=
  ∀ (i : Instr) (s t : State), exec i s = .next t →
    (t.out.txErr = .payloadTooLarge ↔
      commandOf i ≠ none ∧ s.tx.phase = .idle ∧ txTooLarge s = true) ∧
    (t.out.txErr = .payloadTooLarge →
      t = { s with tx := { s.tx with len := 0#16, ovf := false },
                   out := ⟨.none, none, .payloadTooLarge⟩, handshake := .performed })

/-- The framer realises encode (R105): pushing n <= 65535 bytes, sending c and n + 5 TX_EMIT output exactly
frame_bytes(c, p), one byte per TX_EMIT, and leave the framer Idle and empty. -/
def Obligations.FramerRealisesEncode : Prop :=
  ∀ (s : State) (c : Byte) (payload wire : List Byte), s.tx.phase = .idle → s.tx.len = 0#16 → s.tx.ovf = false →
    frameBytes Config.ck c payload = some wire →
      ∃ t, observe (payload.map .txPush ++ [.txSend c] ++ List.replicate (payload.length + 5) .txEmit) s =
          some (List.replicate (payload.length + 1) Out.quiet ++ wire.map emitTx, t) ∧
        t.tx.phase = .idle ∧ t.tx.len = 0#16 ∧ t.tx.ovf = false ∧ t.rx = s.rx

/-- Failure of encode emits nothing (R106): n >= 65536 pushes and a TX_SEND raise PayloadTooLarge in the TX_SEND
step, no TX_EMIT has a step, and the framer is left Idle and empty. -/
def Obligations.OversizeEmitsNothing : Prop :=
  ∀ (s : State) (c : Byte) (payload : List Byte), s.tx.phase = .idle → s.tx.len = 0#16 → s.tx.ovf = false →
    65536 ≤ payload.length →
      ∃ t, observe (payload.map .txPush ++ [.txSend c]) s =
          some (List.replicate payload.length Out.quiet ++ [raisePayloadTooLarge], t) ∧
        t.tx.phase = .idle ∧ t.tx.len = 0#16 ∧ t.tx.ovf = false ∧
        ∀ n, ∃ u, observe (List.replicate n .txEmit) t = some ([], u) ∧ u.tx = t.tx

/-- Frames on the line are never altered (R107, 20_memory.md R58): once a frame has started, whatever other
operations but RESET come between, the first L + 5 TX_EMIT operations put exactly its bytes on the line. -/
def Obligations.FrameOnTheLineIsNeverAltered : Prop :=
  ∀ (s t : State) (ops : List Instr) (outs : List Out) (wire : List Byte), s.tx.phase = .start →
    TxInv s.tx → .reset ∉ ops → ops.count .txEmit ≤ s.tx.len.toNat + 5 →
    frameBytes Config.ck s.tx.cmd (memReadTo s.draws .txb s.tx.buf s.tx.len.toNat) = some wire →
    observe ops s = some (outs, t) → bytesOf outs = wire.take (ops.count .txEmit)

/-- The byte TX_EMIT outputs is the one 10_state.md R27 names for the phase, and a byte is output only while a
frame is in progress (40_framer_tx.md R100). -/
def Obligations.EmittedByteIsNamedByPhase : Prop :=
  ∀ (i : Instr) (s t : State), exec i s = .next t →
    (t.out.txByte ≠ none ↔ i = .txEmit ∧ s.tx.phase ≠ .idle) ∧
    (i = .txEmit → t.out.txByte =
      match s.tx.phase with
      | .idle => none
      | .start => some 0xAA#8
      | .lenHi => some (s.tx.len.extractLsb' 8 8)
      | .lenLo => some (s.tx.len.extractLsb' 0 8)
      | .cmd => some s.tx.cmd
      | .payload => some (memRead s.draws .txb s.tx.buf s.tx.idx.toNat)
      | .ck => some (ckFinal Config.ck s.tx.acc))

/-- The seven command names complete (the model's choice, log entry 3): in Idle without tx_ovf each starts a frame
with its code of R73, RESET_PERSONALITY like any other (60_exceptions.md R192). -/
def Obligations.CommandNamesStartFrames : Prop :=
  ∀ (s : State) (i : Instr) (c : Byte),
    (i, c) ∈ [(Instr.setDrive, 0x01#8), (.getDrives, 0x02#8), (.encodeEvent, 0x10#8), (.getTrust, 0x11#8),
              (.getPersonality, 0x20#8), (.resetPersonality, 0x21#8), (.ping, 0x30#8)] →
      commandOf i = some c ∧
      (s.tx.phase = .idle → s.tx.ovf = false →
        exec i s = .next { s with
          tx := { s.tx with cmd := c, idx := 0#16, phase := .start },
          out := ⟨.none, none, .none⟩, handshake := .performed }) ∧
      (s.tx.phase = .idle → s.tx.ovf = true →
        exec i s = .next { s with
          tx := { s.tx with len := 0#16, ovf := false },
          out := ⟨.none, none, .payloadTooLarge⟩, handshake := .performed }) ∧
      (s.tx.phase ≠ .idle → exec i s = .next { s with out := Out.quiet, handshake := .held })

-- RESET and the whole machine ----------------------------------------------------------------------------

/-- RESET (70_reset_and_hazards.md R210): word 0x700; every register its reset value, no output, and every byte of
both buffers a new draw (log entry 2); what the agents still offer is not the block's. -/
def Obligations.ResetOperation : Prop :=
  decode (.word 0x700#12) = .ok .reset ∧
  ∀ s : State, enabled .reset s = true ∧
    ∃ t, exec .reset s = .next t ∧
      t.rx.state = .awaitStart ∧ t.rx.len = 0#16 ∧ t.rx.cmd = 0#8 ∧ t.rx.rem = 0#16 ∧ t.rx.acc = 0#8 ∧
      t.tx.phase = .idle ∧ t.tx.len = 0#16 ∧ t.tx.ovf = false ∧ t.tx.cmd = 0#8 ∧ t.tx.idx = 0#16 ∧
      t.tx.acc = 0#8 ∧ t.out = ⟨.none, none, .none⟩ ∧ t.agents = s.agents ∧
      ∀ a, memRead t.draws .rxb t.rx.buf a = Config.bufferDraw (s.draws + 1) .rxb a ∧
           memRead t.draws .txb t.tx.buf a = Config.bufferDraw (s.draws + 1) .txb a

/-- Power-on acts as a RESET (R211): the state before the first operation has the registers RESET leaves, and every
status output is 0 (10_state.md R35). -/
def Obligations.PowerOnIsReset : Prop :=
  (∀ s t : State, exec .reset s = .next t → t.rx = State.reset.rx ∧ t.tx = State.reset.tx) ∧
  State.reset.rx.state = .awaitStart ∧ rxStateCode State.reset = 0#3 ∧ txPhaseCode State.reset = 0#3 ∧
  txBusy State.reset = false ∧ txCount State.reset = 0#16 ∧ txTooLarge State.reset = false

/-- The status outputs (R35) with the codes of R21 and R27, functions of the state alone, and their reset values. -/
def Obligations.StatusOutputs : Prop :=
  (rxStateCode State.reset = 0#3 ∧ txPhaseCode State.reset = 0#3 ∧ txBusy State.reset = false ∧
    txCount State.reset = 0#16 ∧ txTooLarge State.reset = false) ∧
  ∀ s : State,
    rxStateCode s = (match s.rx.state with
      | .awaitStart => 0#3 | .readLenHi => 1#3 | .readLenLo => 2#3
      | .readCmd => 3#3 | .readPayload => 4#3 | .readChecksum => 5#3) ∧
    txPhaseCode s = (match s.tx.phase with
      | .idle => 0#3 | .start => 1#3 | .lenHi => 2#3 | .lenLo => 3#3
      | .cmd => 4#3 | .payload => 5#3 | .ck => 6#3) ∧
    (txBusy s = true ↔ s.tx.phase ≠ .idle) ∧ txCount s = s.tx.len ∧ txTooLarge s = s.tx.ovf

/-- The invariants of R37, R38 and 42_integrity.md R167 hold at reset. -/
def Obligations.InvariantAtReset : Prop := State.Inv State.reset

/-- The invariants of R37, R38 and R167, and the canonical form of both buffers, are kept by every step. -/
def Obligations.StepKeepsInvariant : Prop := ∀ s t : State, s.Inv → step s = .next t → t.Inv

/-- Index 0xFFFF is never formed (20_memory.md R50): from a state with the invariant no step faults. -/
def Obligations.NoStepFaultsUnderInvariant : Prop := ∀ s : State, s.Inv → s.stepSafe

/-- Where an operation faults (log entry 9): exactly where its computed index is 0xFFFF, which the buffers do not
have (R50). No operation is refused: only words that spell none are. -/
def Obligations.FaultsExactlyAtMissingIndex : Prop :=
  ∀ (i : Instr) (s : State),
    (∀ f, exec i s = .fault f ↔
      ((∃ b, i = .rxByte b) ∧ s.rx.state = .readPayload ∧ s.rx.len - s.rx.rem = 0xFFFF#16 ∧
        f = .noSuchIndex .rxb) ∨
      (i = .txEmit ∧ s.tx.phase = .payload ∧ s.tx.idx = 0xFFFF#16 ∧ f = .noSuchIndex .txb)) ∧
    (∀ r, exec i s ≠ .refused r)

/-- Each path is written only by its own operations (10_state.md R20), RESET apart, and only RESET draws the buffers
anew (70_reset_and_hazards.md R210). That no operation, RESET included, touches what the agents still offer is the
model's (log entry 17, DEDUCED). -/
def Obligations.OnlyItsOwnPathIsWritten : Prop :=
  ∀ (i : Instr) (s t : State), exec i s = .next t →
    t.agents = s.agents ∧
    (receivePath i = true → t.tx = s.tx ∧ t.draws = s.draws) ∧
    (transmitPath i = true → t.rx = s.rx ∧ t.draws = s.draws) ∧
    (receivePath i = false → transmitPath i = false → i = .reset)

/-- Every byte of both buffers keeps its value but the one an operation stores to: RXB at rx_len - rx_rem for an
RX_BYTE in ReadPayload (41_parser_rx.md R135), TXB at tx_len for a TX_PUSH with room (40_framer_tx.md R101), and that
byte reads as the operand. RESET is left out: it draws every byte anew. -/
def Obligations.BufferBytesFrame : Prop :=
  ∀ (i : Instr) (s t : State), exec i s = .next t → i ≠ .reset →
    (∀ a, ¬ ((∃ b, i = .rxByte b) ∧ s.rx.state = .readPayload ∧ a = (s.rx.len - s.rx.rem).toNat) →
      memRead t.draws .rxb t.rx.buf a = memRead s.draws .rxb s.rx.buf a) ∧
    (∀ a, ¬ ((∃ b, i = .txPush b) ∧ s.tx.phase = .idle ∧ s.tx.len ≠ 65535#16 ∧ a = s.tx.len.toNat) →
      memRead t.draws .txb t.tx.buf a = memRead s.draws .txb s.tx.buf a) ∧
    (∀ b, i = .rxByte b → s.rx.state = .readPayload →
      memRead t.draws .rxb t.rx.buf (s.rx.len - s.rx.rem).toNat = b) ∧
    (∀ b, i = .txPush b → s.tx.phase = .idle → s.tx.len ≠ 65535#16 →
      memRead t.draws .txb t.tx.buf s.tx.len.toNat = b)

/-- Path independence (20_memory.md R59): an operation of one path and one of the other give the same paths and the
same outputs in either order. -/
def Obligations.PathsCommute : Prop :=
  ∀ (i j : Instr) (s t u : State),
    (receivePath i = true ∧ transmitPath j = true) ∨ (transmitPath i = true ∧ receivePath j = true) →
    exec i s = .next t → exec j t = .next u →
      ∃ t' u', exec j s = .next t' ∧ exec i t' = .next u' ∧
        u'.rx = u.rx ∧ u'.tx = u.tx ∧ u'.draws = u.draws ∧ u'.agents = u.agents ∧
        t'.out = u.out ∧ u'.out = t.out

/-- The two paths run independently (R59, and the last sentences of R105 and R140): in a run without RESET the receive
path and its events are those of the run's receive-path operations alone, and the transmit path, the bytes on the line
and the transmit errors are those of its transmit-path operations alone. -/
def Obligations.PathsRunIndependently : Prop :=
  ∀ (ops : List Instr) (s t : State) (outs : List Out), .reset ∉ ops → observe ops s = some (outs, t) →
    (∃ outsRx u, observe (ops.filter receivePath) s = some (outsRx, u) ∧
      u.rx = t.rx ∧ eventsOf outsRx = eventsOf outs) ∧
    (∃ outsTx u, observe (ops.filter transmitPath) s = some (outsTx, u) ∧
      u.tx = t.tx ∧ bytesOf outsTx = bytesOf outs ∧ errorsOf outsTx = errorsOf outs)

/-- Determinism (41_parser_rx.md R145): a path's new registers and its output depend only on that path, the operand,
the checksum parameters and the buffers' draw, whatever the other path and the rest of the state are. -/
def Obligations.PathIsAFunctionOfItself : Prop :=
  ∀ (i : Instr) (s s' t t' : State), s'.draws = s.draws → exec i s = .next t → exec i s' = .next t' →
    (receivePath i = true → s'.rx = s.rx → t'.rx = t.rx ∧ t'.out = t.out) ∧
    (transmitPath i = true → s'.tx = s.tx → t'.tx = t.tx ∧ t'.out = t.out)

/-- The draw cannot reach an output (70_reset_and_hazards.md R210): in a state with the invariant, changing what the
unwritten bytes of both buffers hold changes no output, no register and no written byte of any operation. -/
def Obligations.DrawReachesNoOutput : Prop :=
  ∀ (i : Instr) (s t : State) (d : Nat), s.Inv → exec i s = .next t →
    ∃ u, exec i { s with draws := d } = .next u ∧
      u.out = t.out ∧ u.rx = t.rx ∧ u.tx = t.tx ∧ u.handshake = t.handshake ∧ u.agents = t.agents

/-- Each output has its one source (10_state.md R36, 60_exceptions.md R186): rx_ev only RX_BYTE, tx_byte only TX_EMIT,
tx_err only the operations that send a COMMAND; at most one is set. -/
def Obligations.OneOutputPerOperation : Prop :=
  ∀ (i : Instr) (s t : State), exec i s = .next t →
    (t.out.rxEv ≠ .none → ∃ b, i = .rxByte b) ∧ (t.out.txByte ≠ none → i = .txEmit) ∧
    (t.out.txErr ≠ .none → commandOf i ≠ none) ∧
    (t.out = Out.quiet ∨ (∃ e, t.out = emitRx e) ∨ (∃ b, t.out = emitTx b) ∨ t.out = raisePayloadTooLarge)

/-- Simultaneous operations (60_exceptions.md R187). RESET discards the rest of its cycle. Receive path: RX_FLUSH, then
RX_BYTE, so a byte arriving with a flush is examined in AwaitStart. Transmit path: TX_EMIT, then the producer's
operation if it is enabled at the start of the cycle, so in Idle TX_EMIT is held even where that operation starts a
frame, and outside Idle the producer's operation is held even where TX_EMIT ends the frame. Each clause speaks of one
path and of one kind of output, so none rests on which path comes first (the model's choice, log entry 21). -/
def Obligations.CycleOrder : Prop :=
  ∀ (s : State) (k : CycleOffer),
    (k.reset = true → ∃ t, exec .reset s = .next t ∧ execCycle k s = some ([Out.quiet], t)) ∧
    (s.Inv → ∃ x, execCycle k s = some x) ∧
    (k.reset = false → ∀ outs t, execCycle k s = some (outs, t) →
      (∀ b, k.flush = true → k.rx = some b →
        t.rx = if b = 0xAA#8 then { s.rx with acc := Config.ck.init, state := .readLenHi }
               else { s.rx with state := .awaitStart }) ∧
      (k.flush = true → k.rx = none → t.rx = { s.rx with state := .awaitStart }) ∧
      (∀ b, k.flush = false → k.rx = some b →
        ∃ u, exec (.rxByte b) s = .next u ∧ t.rx = u.rx ∧ eventsOf outs = eventsOf [u.out]) ∧
      (k.flush = false → k.rx = none → t.rx = s.rx) ∧
      (s.tx.phase ≠ .idle → k.emit = true →
        ∃ u, exec .txEmit s = .next u ∧ t.tx = u.tx ∧ bytesOf outs = bytesOf [u.out]) ∧
      (s.tx.phase = .ck → k.emit = true → t.tx = { s.tx with phase := .idle, len := 0#16, idx := 0#16 }) ∧
      (s.tx.phase ≠ .idle → k.emit = false → t.tx = s.tx ∧ bytesOf outs = []) ∧
      (s.tx.phase = .idle → bytesOf outs = [] ∧
        (k.producer = none → t.tx = s.tx) ∧
        (∀ b, k.producer = some (.push b) →
          t.tx = if s.tx.len = 65535#16 then { s.tx with ovf := true }
                 else { s.tx with buf := Memory.write s.tx.buf s.tx.len.toNat b, len := s.tx.len + 1#16 }) ∧
        (∀ c, k.producer = some (.send c) → s.tx.ovf = false →
          t.tx = { s.tx with cmd := c, idx := 0#16, phase := .start } ∧ errorsOf outs = []) ∧
        (∀ c, k.producer = some (.send c) → s.tx.ovf = true →
          t.tx = { s.tx with len := 0#16, ovf := false } ∧ errorsOf outs = [.payloadTooLarge]) ∧
        (k.producer = some .clear → t.tx = { s.tx with len := 0#16, ovf := false })))

/-- The last invariants of R37 and R38, over runs: in ReadPayload and ReadChecksum the received payload bytes of RXB have
been written since the last start marker, and always the pushed bytes of TXB since the last clear. They are kept by
every run, and hold after any run from reset. That RESET begins both anew is the model's (log entry 20). -/
def Obligations.WrittenSinceMarkerAndClear : Prop :=
  (∀ (ops : List Instr) (s t : State) (outs : List Out) (w v : List Nat), observe ops s = some (outs, t) →
    (RxInv s.rx → RxSince w s.rx → RxSince (sinceAfter rxSince w ops s) t.rx) ∧
    (TxSince v s.tx → TxSince (sinceAfter txSince v ops s) t.tx)) ∧
  (∀ (ops : List Instr) (t : State) (outs : List Out), observe ops State.reset = some (outs, t) →
    RxSince (sinceAfter rxSince [] ops State.reset) t.rx ∧ TxSince (sinceAfter txSince [] ops State.reset) t.tx)

/-- The checksum parameters are arguments of the step relation (10_state.md R41) and the block's own step is the one at
its parameters. For any parameters p and q: a framer built with p outputs the wire frame of p (40_framer_tx.md R105),
and a parser built with q delivers it exactly if both give its body the same checksum, and otherwise reports Corrupt
(41_parser_rx.md R140, 70_reset_and_hazards.md R219). -/
def Obligations.LinkUnderAnyParameters : Prop :=
  (∀ (i : Instr) (s : State), exec i s = execWith Config.ck i s ∧ step s = stepWith Config.ck s) ∧
  ∀ (p q : CkParams) (s r : State) (c : Byte) (payload wire : List Byte),
    s.tx.phase = .idle → s.tx.len = 0#16 → s.tx.ovf = false → r.rx.state = .awaitStart →
    frameBytes p c payload = some wire →
      (∃ outs t, observeWith p (payload.map .txPush ++ [.txSend c] ++ List.replicate (payload.length + 5) .txEmit) s =
          some (outs, t) ∧ bytesOf outs = wire ∧
        t.tx.phase = .idle ∧ t.tx.len = 0#16 ∧ t.tx.ovf = false) ∧
      (∃ t, observeWith q (wire.map .rxByte) r =
          some (List.replicate (payload.length + 4) Out.quiet ++
            [emitRx (if checksum p (frameBody c payload) = checksum q (frameBody c payload)
                     then .frameReady ⟨c, payload⟩ else .corrupt)], t) ∧
        t.rx.state = .awaitStart)

-- Integrity checker and notation -------------------------------------------------------------------------

/-- Bit reversal (42_integrity.md R161): bit i of reflect8(v) is bit 7 - i of v. -/
def Obligations.ReflectReversesBits : Prop :=
  (∀ (v : Byte) (i : Nat), i < 8 → (reflect8 v).getLsbD i = v.getLsbD (7 - i)) ∧
  reflect8 0x01#8 = 0x80#8 ∧ reflect8 0x64#8 = 0x26#8

/-- The catalogue check values of R169 over ASCII "123456789". -/
def Obligations.CatalogueCheckValues : Prop :=
  checksum .smbus [0x31#8, 0x32#8, 0x33#8, 0x34#8, 0x35#8, 0x36#8, 0x37#8, 0x38#8, 0x39#8] = 0xF4#8 ∧
  checksum .maximDow [0x31#8, 0x32#8, 0x33#8, 0x34#8, 0x35#8, 0x36#8, 0x37#8, 0x38#8, 0x39#8] = 0xA1#8

/-- The checksum is affine (R168, first item), for any parameters: an error pattern changes it by crc0 of the
pattern, whatever the message, CK_INIT and CK_XOROUT are. -/
def Obligations.ChecksumIsAffine : Prop :=
  ∀ (p : CkParams) (msg err : List Byte), msg.length = err.length →
    checksum p (List.zipWith (· ^^^ ·) msg err) = checksum p msg ^^^ crc0 p err

/-- Single-bit errors (R168, second item), for any parameters: every error of one bit is detected if and only if
CK_POLY is not 0x00. -/
def Obligations.SingleBitErrorsDetected : Prop :=
  ∀ p : CkParams,
    (∀ (before after : List Byte) (b : Byte) (j : Nat), j < 8 →
      checksum p (before ++ [b ^^^ (1#8 <<< j)] ++ after) ≠ checksum p (before ++ [b] ++ after)) ↔
    p.poly ≠ 0x00#8

/-- Errors confined to one byte (R168, third item), for any parameters: every such error is detected if and only if
CK_POLY[0] = 1. -/
def Obligations.SingleByteErrorsDetected : Prop :=
  ∀ p : CkParams,
    (∀ (before after : List Byte) (b b' : Byte), b ≠ b' →
      checksum p (before ++ [b] ++ after) ≠ checksum p (before ++ [b'] ++ after)) ↔
    p.poly.getLsbD 0 = true

/-- The wire frame (30_encoding.md R70, R71, R75, R76): START, LENGTH big-endian, COMMAND, PAYLOAD, CHECKSUM at their
offsets; L + 5 bytes; no frame for a payload of more than 65535 bytes. -/
def Obligations.WireFrameLayout : Prop :=
  ∀ (p : CkParams) (c : Byte) (payload : List Byte),
    (65535 < payload.length ↔ frameBytes p c payload = none) ∧
    ∀ wire, frameBytes p c payload = some wire →
      wire.length = payload.length + 5 ∧ wire[0]? = some 0xAA#8 ∧
      (∃ hi lo, wire[1]? = some hi ∧ wire[2]? = some lo ∧ hi.toNat * 256 + lo.toNat = payload.length ∧
        wire[payload.length + 4]? = some (checksum p ([hi, lo, c] ++ payload))) ∧
      wire[3]? = some c ∧ (wire.drop 4).take payload.length = payload

/-- Assembler syntax (R83): the operand of RX_BYTE, TX_PUSH and TX_SEND is a number in 0..255, hexadecimal or decimal, a
command name stands for its code of R73 in TX_SEND only, the other mnemonics of R81 have no operand, a line assembles
to `(OP << 8) | DATA`, and what follows a `;` does not matter. How a text is cut into words, and that hexadecimal
letters have either case, is the model's choice (log entry 16). -/
def Obligations.AssemblerLines : Prop :=
  (∀ n : Nat,
    (n ≤ 255 →
      assemble ⟨.RX_BYTE, some (.number n)⟩ = some (BitVec.ofNat 12 (0x100 + n)) ∧
      assemble ⟨.TX_PUSH, some (.number n)⟩ = some (BitVec.ofNat 12 (0x300 + n)) ∧
      assemble ⟨.TX_SEND, some (.number n)⟩ = some (BitVec.ofNat 12 (0x400 + n)) ∧
      readNumber (Nat.toDigits 10 n) = some n ∧
      readNumber ('0' :: 'x' :: Nat.toDigits 16 n) = some n ∧
      readNumber ('0' :: 'x' :: (Nat.toDigits 16 n).map Char.toUpper) = some n) ∧
    (255 < n →
      assemble ⟨.RX_BYTE, some (.number n)⟩ = none ∧ assemble ⟨.TX_PUSH, some (.number n)⟩ = none ∧
      assemble ⟨.TX_SEND, some (.number n)⟩ = none)) ∧
  (assemble ⟨.RX_FLUSH, none⟩ = some 0x200#12 ∧ assemble ⟨.TX_CLEAR, none⟩ = some 0x500#12 ∧
    assemble ⟨.TX_EMIT, none⟩ = some 0x600#12 ∧ assemble ⟨.RESET, none⟩ = some 0x700#12 ∧
    ∀ o, assemble ⟨.RX_FLUSH, some o⟩ = none ∧ assemble ⟨.TX_CLEAR, some o⟩ = none ∧
      assemble ⟨.TX_EMIT, some o⟩ = none ∧ assemble ⟨.RESET, some o⟩ = none) ∧
  (assemble ⟨.RX_BYTE, none⟩ = none ∧ assemble ⟨.TX_PUSH, none⟩ = none ∧ assemble ⟨.TX_SEND, none⟩ = none) ∧
  (commandCode .SET_DRIVE = 0x01#8 ∧ commandCode .GET_DRIVES = 0x02#8 ∧ commandCode .ENCODE_EVENT = 0x10#8 ∧
    commandCode .GET_TRUST = 0x11#8 ∧ commandCode .GET_PERSONALITY = 0x20#8 ∧
    commandCode .RESET_PERSONALITY = 0x21#8 ∧ commandCode .PING = 0x30#8) ∧
  (∀ c, assemble ⟨.TX_SEND, some (.name c)⟩ = assemble ⟨.TX_SEND, some (.number (commandCode c).toNat)⟩ ∧
    assemble ⟨.RX_BYTE, some (.name c)⟩ = none ∧ assemble ⟨.TX_PUSH, some (.name c)⟩ = none) ∧
  (∀ (l : AsmLine) (w : OpWord), assemble l = some w → ∃ i, decode (.word w) = .ok i) ∧
  (∀ line comment : List Char, ';' ∉ line → readLine (line ++ ';' :: comment) = readLine line) ∧
  (assembleText "RX_BYTE 0xAA" = some 0x1AA#12 ∧ assembleText "RX_BYTE 170" = some 0x1AA#12 ∧
    assembleText "RX_FLUSH" = some 0x200#12 ∧ assembleText "TX_PUSH 5" = some 0x305#12 ∧
    assembleText "TX_SEND 0x01" = some 0x401#12 ∧ assembleText "TX_CLEAR" = some 0x500#12 ∧
    assembleText "TX_EMIT" = some 0x600#12 ∧ assembleText "RESET" = some 0x700#12 ∧
    assembleText "TX_SEND SET_DRIVE" = some 0x401#12 ∧ assembleText "TX_SEND GET_DRIVES" = some 0x402#12 ∧
    assembleText "TX_SEND ENCODE_EVENT" = some 0x410#12 ∧ assembleText "TX_SEND GET_TRUST" = some 0x411#12 ∧
    assembleText "TX_SEND GET_PERSONALITY" = some 0x420#12 ∧
    assembleText "TX_SEND RESET_PERSONALITY" = some 0x421#12 ∧ assembleText "TX_SEND PING" = some 0x430#12 ∧
    hexDigits 0x401#12 = [0x4#4, 0x0#4, 0x1#4])

/-- Pseudo-operations (R84): each expands as its row says, over tokens (log entry 16). -/
def Obligations.PseudoOperations : Prop :=
  ∀ (p : CkParams) (bs payload : List Byte) (c : Byte) (n : Nat) (body : Pseudo) (is : List Instr),
    expand p (.rxBytes bs) = some (bs.map .rxByte) ∧
    expand p (.rxFrame c payload) = (frameBytes p c payload).map (fun w => w.map .rxByte) ∧
    expand p (.txFrame c payload) = some (payload.map .txPush ++ [.txSend c]) ∧
    expand p (.txDrain n) = some (List.replicate n .txEmit) ∧
    (expand p body = some is → expand p (.repeatOps n body) = some ((List.replicate n is).flatten))

end
end

