-- ==== Sys2Proof/Laws/Memory.lean ====
section
/-! SUPPORT. The laws of the buffers: a read after a write, and that a write keeps the canonical form. -/

namespace Sys2Proof.Machine

@[simp] theorem Memory.read?_nil (a : Nat) : Memory.read? [] a = none := rfl

@[simp] theorem Memory.read?_write_same (m : Memory) (a : Nat) (v : Byte) :
    Memory.read? (Memory.write m a v) a = some v := by
  induction m with
  | nil => simp [Memory.write, Memory.read?]
  | cons c m ih =>
    obtain ⟨a', v'⟩ := c
    unfold Memory.write
    split
    · simp [Memory.read?]
    · split
      · simp [Memory.read?]
      · simp [Memory.read?, *]

theorem Memory.read?_write_other (m : Memory) {a b : Nat} (v : Byte) (h : b ≠ a) :
    Memory.read? (Memory.write m a v) b = Memory.read? m b := by
  induction m with
  | nil => simp [Memory.write, Memory.read?, h]
  | cons c m ih =>
    obtain ⟨a', v'⟩ := c
    unfold Memory.write
    split
    · simp [Memory.read?, h]
    · split
      · next h2 => subst h2; simp [Memory.read?, h]
      · simp [Memory.read?, ih]

@[simp] theorem memRead_write_same (d : Nat) (b : Buffer) (m : Memory) (a : Nat) (v : Byte) :
    memRead d b (Memory.write m a v) a = v := by
  simp [memRead]

theorem memRead_write_other (d : Nat) (b : Buffer) (m : Memory) {a i : Nat} (v : Byte) (h : i ≠ a) :
    memRead d b (Memory.write m a v) i = memRead d b m i := by
  simp [memRead, Memory.read?_write_other m v h]

/-- An unlisted index reads as its draw. -/
theorem memRead_unlisted {d : Nat} {b : Buffer} {m : Memory} {a : Nat} (h : Memory.read? m a = none) :
    memRead d b m a = Config.bufferDraw d b a := by
  simp [memRead, h]

/-- A written index reads the same whatever the draw. -/
theorem memRead_written {m : Memory} {a : Nat} (h : Memory.read? m a ≠ none) (d d' : Nat) (b : Buffer) :
    memRead d b m a = memRead d' b m a := by
  obtain ⟨v, hv⟩ := Option.ne_none_iff_exists'.mp h
  simp [memRead, hv]

@[simp] theorem memReadTo_length (d : Nat) (b : Buffer) (m : Memory) (n : Nat) :
    (memReadTo d b m n).length = n := by
  simp [memReadTo]

@[simp] theorem memReadTo_zero (d : Nat) (b : Buffer) (m : Memory) : memReadTo d b m 0 = [] := rfl

theorem memReadTo_succ (d : Nat) (b : Buffer) (m : Memory) (n : Nat) :
    memReadTo d b m (n + 1) = memReadTo d b m n ++ [memRead d b m n] := by
  simp [memReadTo, List.range_succ]

/-- Writing at index `n` or beyond leaves the first `n` bytes. -/
theorem memReadTo_write_beyond (d : Nat) (b : Buffer) (m : Memory) {a n : Nat} (v : Byte) (h : n ≤ a) :
    memReadTo d b (Memory.write m a v) n = memReadTo d b m n := by
  refine List.map_congr_left fun i hi => memRead_write_other d b m v ?_
  have := List.mem_range.mp hi
  omega

theorem Memory.wfFrom_write {m : Memory} {a : Nat} (v : Byte) (ha : a < Config.capacity) :
    ∀ {lo : Nat}, lo ≤ a → Memory.wfFrom lo m = true → Memory.wfFrom lo (Memory.write m a v) = true := by
  induction m with
  | nil => intro lo hlo _; simp [Memory.write, Memory.wfFrom, hlo, ha]
  | cons c m ih =>
    obtain ⟨a', v'⟩ := c
    intro lo hlo h
    simp only [Memory.wfFrom, Bool.and_eq_true, decide_eq_true_eq] at h
    unfold Memory.write
    split
    · next h1 => simp [Memory.wfFrom, hlo, ha, h.1.2, h.2, Nat.succ_le_of_lt h1]
    · split
      · next h2 => subst h2; simp [Memory.wfFrom, hlo, ha, h.2]
      · next h1 h2 => simp [Memory.wfFrom, h.1.1, h.1.2, ih (lo := a' + 1) (by omega) h.2]

/-- A write keeps the canonical form. -/
theorem Memory.wf_write {m : Memory} {a : Nat} (v : Byte) (ha : a < Config.capacity)
    (h : Memory.wf m = true) : Memory.wf (Memory.write m a v) = true :=
  Memory.wfFrom_write v ha (Nat.zero_le _) h

@[simp] theorem Memory.wf_nil : Memory.wf [] = true := rfl

theorem State.reset_buffers_wf : Memory.wf State.reset.rx.buf = true ∧ Memory.wf State.reset.tx.buf = true :=
  ⟨rfl, rfl⟩

/-- A 16-bit index that exists is below the capacity, and only 0xFFFF does not exist. -/
theorem indexExists_iff (a : U16) : indexExists a = true ↔ a ≠ 0xFFFF#16 := by
  have h := a.isLt
  have h2 : (a = 0xFFFF#16) ↔ a.toNat = 65535 := by rw [← BitVec.toNat_inj]; rfl
  rw [indexExists, decide_eq_true_eq, Config.capacity, ne_eq, h2]
  omega

end Sys2Proof.Machine
end

