-- ==== Sys2Proof/Laws/State.lean ====
section
/-! SUPPORT. One lemma per field per state update, so that no proof unfolds a record update. -/

namespace Sys2Proof.Machine

section
variable (s : State) (r : RxPath) (t : TxPath) (o : Out) (ts : List Agent) (a : Agent) (os : List Offer)

@[simp] theorem State.withRx_rx : (s.withRx r o).rx = r := rfl
@[simp] theorem State.withRx_tx : (s.withRx r o).tx = s.tx := rfl
@[simp] theorem State.withRx_out : (s.withRx r o).out = o := rfl
@[simp] theorem State.withRx_handshake : (s.withRx r o).handshake = .performed := rfl
@[simp] theorem State.withRx_draws : (s.withRx r o).draws = s.draws := rfl
@[simp] theorem State.withRx_agents : (s.withRx r o).agents = s.agents := rfl

@[simp] theorem State.withTx_rx : (s.withTx t o).rx = s.rx := rfl
@[simp] theorem State.withTx_tx : (s.withTx t o).tx = t := rfl
@[simp] theorem State.withTx_out : (s.withTx t o).out = o := rfl
@[simp] theorem State.withTx_handshake : (s.withTx t o).handshake = .performed := rfl
@[simp] theorem State.withTx_draws : (s.withTx t o).draws = s.draws := rfl
@[simp] theorem State.withTx_agents : (s.withTx t o).agents = s.agents := rfl

@[simp] theorem State.hold_rx : s.hold.rx = s.rx := rfl
@[simp] theorem State.hold_tx : s.hold.tx = s.tx := rfl
@[simp] theorem State.hold_out : s.hold.out = Out.quiet := rfl
@[simp] theorem State.hold_handshake : s.hold.handshake = .held := rfl
@[simp] theorem State.hold_draws : s.hold.draws = s.draws := rfl
@[simp] theorem State.hold_agents : s.hold.agents = s.agents := rfl

@[simp] theorem State.rest_rx : s.rest.rx = s.rx := rfl
@[simp] theorem State.rest_tx : s.rest.tx = s.tx := rfl
@[simp] theorem State.rest_out : s.rest.out = Out.quiet := rfl
@[simp] theorem State.rest_handshake : s.rest.handshake = .idle := rfl
@[simp] theorem State.rest_draws : s.rest.draws = s.draws := rfl
@[simp] theorem State.rest_agents : s.rest.agents = s.agents := rfl

@[simp] theorem State.withReset_rx : s.withReset.rx = RxPath.reset := rfl
@[simp] theorem State.withReset_tx : s.withReset.tx = TxPath.reset := rfl
@[simp] theorem State.withReset_out : s.withReset.out = Out.quiet := rfl
@[simp] theorem State.withReset_handshake : s.withReset.handshake = .performed := rfl
@[simp] theorem State.withReset_draws : s.withReset.draws = s.draws + 1 := rfl
@[simp] theorem State.withReset_agents : s.withReset.agents = s.agents := rfl

@[simp] theorem State.withTurns_rx : (s.withTurns ts).rx = s.rx := rfl
@[simp] theorem State.withTurns_tx : (s.withTurns ts).tx = s.tx := rfl
@[simp] theorem State.withTurns_out : (s.withTurns ts).out = s.out := rfl
@[simp] theorem State.withTurns_handshake : (s.withTurns ts).handshake = s.handshake := rfl
@[simp] theorem State.withTurns_draws : (s.withTurns ts).draws = s.draws := rfl
@[simp] theorem State.withTurns_turns : (s.withTurns ts).agents.turns = ts := rfl
@[simp] theorem State.withTurns_pending : (s.withTurns ts).agents.pending a = s.agents.pending a := by
  cases a <;> rfl

@[simp] theorem State.withPending_rx : (s.withPending a os).rx = s.rx := rfl
@[simp] theorem State.withPending_tx : (s.withPending a os).tx = s.tx := rfl
@[simp] theorem State.withPending_out : (s.withPending a os).out = s.out := rfl
@[simp] theorem State.withPending_handshake : (s.withPending a os).handshake = s.handshake := rfl
@[simp] theorem State.withPending_draws : (s.withPending a os).draws = s.draws := rfl
@[simp] theorem State.withPending_turns : (s.withPending a os).agents.turns = s.agents.turns := by
  cases a <;> rfl
@[simp] theorem State.withPending_pending : (s.withPending a os).agents.pending a = os := by
  cases a <;> rfl
theorem State.withPending_pending_other {a b : Agent} (h : b ≠ a) :
    (s.withPending a os).agents.pending b = s.agents.pending b := by
  cases a <;> cases b <;> first | rfl | exact absurd rfl h

end

@[simp] theorem Out.quiet_rxEv : Out.quiet.rxEv = .none := rfl
@[simp] theorem Out.quiet_txByte : Out.quiet.txByte = none := rfl
@[simp] theorem Out.quiet_txErr : Out.quiet.txErr = .none := rfl
@[simp] theorem emitRx_rxEv (e : FrameEvent) : (emitRx e).rxEv = e := rfl
@[simp] theorem emitRx_txByte (e : FrameEvent) : (emitRx e).txByte = none := rfl
@[simp] theorem emitRx_txErr (e : FrameEvent) : (emitRx e).txErr = .none := rfl
@[simp] theorem emitTx_rxEv (b : Byte) : (emitTx b).rxEv = .none := rfl
@[simp] theorem emitTx_txByte (b : Byte) : (emitTx b).txByte = some b := rfl
@[simp] theorem emitTx_txErr (b : Byte) : (emitTx b).txErr = .none := rfl
@[simp] theorem raisePayloadTooLarge_rxEv : raisePayloadTooLarge.rxEv = .none := rfl
@[simp] theorem raisePayloadTooLarge_txByte : raisePayloadTooLarge.txByte = none := rfl
@[simp] theorem raisePayloadTooLarge_txErr : raisePayloadTooLarge.txErr = .payloadTooLarge := rfl

end Sys2Proof.Machine
end

