-- ==== Sys2Proof/Laws/Exec.lean ====
section
/-! SUPPORT. What each shared operation, exec and step can do, said once for the proofs to cite. -/

namespace Sys2Proof.Machine

/-- What committing a receive-path result can answer. -/
theorem commitRx_next {s t : State} {x : PathResult RxPath} (h : commitRx s x = .next t) :
    (∃ r o, x = .done r o ∧ t = s.withRx r o) ∨ (x = .held ∧ t = s.hold) := by
  cases x with
  | done r o => exact .inl ⟨r, o, rfl, by simpa [commitRx] using h.symm⟩
  | held => exact .inr ⟨rfl, by simpa [commitRx] using h.symm⟩
  | fault f => simp [commitRx] at h

/-- What committing a transmit-path result can answer. -/
theorem commitTx_next {s t : State} {x : PathResult TxPath} (h : commitTx s x = .next t) :
    (∃ p o, x = .done p o ∧ t = s.withTx p o) ∨ (x = .held ∧ t = s.hold) := by
  cases x with
  | done p o => exact .inl ⟨p, o, rfl, by simpa [commitTx] using h.symm⟩
  | held => exact .inr ⟨rfl, by simpa [commitTx] using h.symm⟩
  | fault f => simp [commitTx] at h

theorem whenIdle_idle {t : TxPath} (h : t.phase = .idle) (f : TxPath → PathResult TxPath) :
    whenIdle t f = f t := by
  simp [whenIdle, TxPath.busy, h]

theorem whenIdle_busy {t : TxPath} (h : t.phase ≠ .idle) (f : TxPath → PathResult TxPath) :
    whenIdle t f = .held := by
  simp [whenIdle, TxPath.busy, h]

/-- The seven command names are the TX_SEND of their code. -/
theorem exec_setDrive (s : State) : exec .setDrive s = exec (.txSend 0x01#8) s := rfl
theorem exec_getDrives (s : State) : exec .getDrives s = exec (.txSend 0x02#8) s := rfl
theorem exec_encodeEvent (s : State) : exec .encodeEvent s = exec (.txSend 0x10#8) s := rfl
theorem exec_getTrust (s : State) : exec .getTrust s = exec (.txSend 0x11#8) s := rfl
theorem exec_getPersonality (s : State) : exec .getPersonality s = exec (.txSend 0x20#8) s := rfl
theorem exec_resetPersonality (s : State) : exec .resetPersonality s = exec (.txSend 0x21#8) s := rfl
theorem exec_ping (s : State) : exec .ping s = exec (.txSend 0x30#8) s := rfl

/-- An operation that sends a COMMAND byte is the TX_SEND of it. -/
theorem exec_of_commandOf {i : Instr} {c : Byte} (h : commandOf i = some c) (s : State) :
    exec i s = sendCommand c s := by
  cases i <;> simp only [commandOf, Option.some.injEq, reduceCtorEq] at h <;> subst h <;> rfl

/-- What exec can answer: a receive-path operation writes the receive path, a transmit-path operation the
transmit path, RESET both, and a held operation neither. -/
theorem exec_next_cases {i : Instr} {s t : State} (h : exec i s = .next t) :
    (∃ b r o, i = .rxByte b ∧ feed Config.ck s.draws b s.rx = .done r o ∧ t = s.withRx r o) ∨
    (i = .rxFlush ∧ t = s.withRx { s.rx with state := .awaitStart } Out.quiet) ∨
    (∃ b p o, i = .txPush b ∧ s.tx.phase = .idle ∧ pushByte b s.tx = .done p o ∧ t = s.withTx p o) ∨
    (∃ c p o, commandOf i = some c ∧ s.tx.phase = .idle ∧ sendFrame c s.tx = .done p o ∧ t = s.withTx p o) ∨
    (i = .txClear ∧ s.tx.phase = .idle ∧ t = s.withTx { s.tx with len := 0x0000#16, ovf := false } Out.quiet) ∨
    (∃ p o, i = .txEmit ∧ s.tx.phase ≠ .idle ∧ emit Config.ck s.draws s.tx = .done p o ∧ t = s.withTx p o) ∨
    (i = .reset ∧ t = s.withReset) ∨
    (enabled i s = false ∧ t = s.hold) := by
  have hsend : ∀ c, commandOf i = some c → exec i s = .next t →
      (∃ p o, s.tx.phase = .idle ∧ sendFrame c s.tx = .done p o ∧ t = s.withTx p o) ∨
      (s.tx.phase ≠ .idle ∧ t = s.hold) := by
    intro c hc he
    rw [exec_of_commandOf hc] at he
    by_cases hp : s.tx.phase = .idle
    · rw [sendCommand, whenIdle_idle hp] at he
      obtain ⟨p, o, h1, h2⟩ | ⟨h1, _⟩ := commitTx_next he
      · exact .inl ⟨p, o, hp, h1, h2⟩
      · unfold sendFrame at h1; split at h1 <;> cases h1
    · rw [sendCommand, whenIdle_busy hp] at he
      exact .inr ⟨hp, by simpa [commitTx] using he.symm⟩
  have hbusy : s.tx.phase ≠ .idle → txBusy s = true := fun hp => by simp [txBusy, TxPath.busy, hp]
  cases i with
  | rxByte b =>
    obtain ⟨r, o, h1, h2⟩ | ⟨h1, _⟩ := commitRx_next h
    · exact .inl ⟨b, r, o, rfl, h1, h2⟩
    · unfold feed at h1; split at h1 <;> (try split at h1) <;> cases h1
  | rxFlush =>
    exact .inr (.inl ⟨rfl, by simpa [exec, execRxFlush, commitRx, flush] using h.symm⟩)
  | txPush b =>
    by_cases hp : s.tx.phase = .idle
    · rw [exec, execTxPush, whenIdle_idle hp] at h
      obtain ⟨p, o, h1, h2⟩ | ⟨h1, _⟩ := commitTx_next h
      · exact .inr (.inr (.inl ⟨b, p, o, rfl, hp, h1, h2⟩))
      · unfold pushByte at h1; split at h1 <;> cases h1
    · rw [exec, execTxPush, whenIdle_busy hp] at h
      exact .inr (.inr (.inr (.inr (.inr (.inr (.inr
        ⟨by simp [enabled, hbusy hp], by simpa [commitTx] using h.symm⟩))))))
  | txClear =>
    by_cases hp : s.tx.phase = .idle
    · rw [exec, execTxClear, whenIdle_idle hp] at h
      obtain ⟨p, o, h1, h2⟩ | ⟨h1, _⟩ := commitTx_next h
      · cases h1; exact .inr (.inr (.inr (.inr (.inl ⟨rfl, hp, h2⟩))))
      · cases h1
    · rw [exec, execTxClear, whenIdle_busy hp] at h
      exact .inr (.inr (.inr (.inr (.inr (.inr (.inr
        ⟨by simp [enabled, hbusy hp], by simpa [commitTx] using h.symm⟩))))))
  | txEmit =>
    by_cases hp : s.tx.phase = .idle
    · rw [exec, execTxEmit, txEmitWith, emit, hp] at h
      exact .inr (.inr (.inr (.inr (.inr (.inr (.inr
        ⟨by simp [enabled, txBusy, TxPath.busy, hp], by simpa [commitTx] using h.symm⟩))))))
    · obtain ⟨p, o, h1, h2⟩ | ⟨h1, _⟩ := commitTx_next h
      · exact .inr (.inr (.inr (.inr (.inr (.inl ⟨p, o, rfl, hp, h1, h2⟩)))))
      · unfold emit at h1
        split at h1
        · next hi => exact absurd hi hp
        all_goals first
          | cases h1
          | (unfold emitPayload at h1; split at h1 <;> cases h1)
  | reset =>
    exact .inr (.inr (.inr (.inr (.inr (.inr (.inl ⟨rfl, by simpa [exec, execReset] using h.symm⟩))))))
  | txSend c =>
    obtain ⟨p, o, hp, h1, h2⟩ | ⟨hp, h2⟩ := hsend c rfl h
    · exact .inr (.inr (.inr (.inl ⟨c, p, o, rfl, hp, h1, h2⟩)))
    · exact .inr (.inr (.inr (.inr (.inr (.inr (.inr ⟨by simp [enabled, hbusy hp], h2⟩))))))
  | setDrive =>
    obtain ⟨p, o, hp, h1, h2⟩ | ⟨hp, h2⟩ := hsend _ rfl h
    · exact .inr (.inr (.inr (.inl ⟨_, p, o, rfl, hp, h1, h2⟩)))
    · exact .inr (.inr (.inr (.inr (.inr (.inr (.inr ⟨by simp [enabled, hbusy hp], h2⟩))))))
  | getDrives =>
    obtain ⟨p, o, hp, h1, h2⟩ | ⟨hp, h2⟩ := hsend _ rfl h
    · exact .inr (.inr (.inr (.inl ⟨_, p, o, rfl, hp, h1, h2⟩)))
    · exact .inr (.inr (.inr (.inr (.inr (.inr (.inr ⟨by simp [enabled, hbusy hp], h2⟩))))))
  | encodeEvent =>
    obtain ⟨p, o, hp, h1, h2⟩ | ⟨hp, h2⟩ := hsend _ rfl h
    · exact .inr (.inr (.inr (.inl ⟨_, p, o, rfl, hp, h1, h2⟩)))
    · exact .inr (.inr (.inr (.inr (.inr (.inr (.inr ⟨by simp [enabled, hbusy hp], h2⟩))))))
  | getTrust =>
    obtain ⟨p, o, hp, h1, h2⟩ | ⟨hp, h2⟩ := hsend _ rfl h
    · exact .inr (.inr (.inr (.inl ⟨_, p, o, rfl, hp, h1, h2⟩)))
    · exact .inr (.inr (.inr (.inr (.inr (.inr (.inr ⟨by simp [enabled, hbusy hp], h2⟩))))))
  | getPersonality =>
    obtain ⟨p, o, hp, h1, h2⟩ | ⟨hp, h2⟩ := hsend _ rfl h
    · exact .inr (.inr (.inr (.inl ⟨_, p, o, rfl, hp, h1, h2⟩)))
    · exact .inr (.inr (.inr (.inr (.inr (.inr (.inr ⟨by simp [enabled, hbusy hp], h2⟩))))))
  | resetPersonality =>
    obtain ⟨p, o, hp, h1, h2⟩ | ⟨hp, h2⟩ := hsend _ rfl h
    · exact .inr (.inr (.inr (.inl ⟨_, p, o, rfl, hp, h1, h2⟩)))
    · exact .inr (.inr (.inr (.inr (.inr (.inr (.inr ⟨by simp [enabled, hbusy hp], h2⟩))))))
  | ping =>
    obtain ⟨p, o, hp, h1, h2⟩ | ⟨hp, h2⟩ := hsend _ rfl h
    · exact .inr (.inr (.inr (.inl ⟨_, p, o, rfl, hp, h1, h2⟩)))
    · exact .inr (.inr (.inr (.inr (.inr (.inr (.inr ⟨by simp [enabled, hbusy hp], h2⟩))))))

/-- What TX_PUSH does once enabled. -/
theorem pushByte_done {b : Byte} {t p : TxPath} {o : Out} (h : pushByte b t = .done p o) :
    o = Out.quiet ∧
    ((t.len = 0xFFFF#16 ∧ p = { t with ovf := true }) ∨
     (t.len ≠ 0xFFFF#16 ∧
      p = { t with buf := Memory.write t.buf t.len.toNat b, len := t.len + 1#16 })) := by
  unfold pushByte TxPath.full at h
  split at h
  · next hl => cases h; exact ⟨rfl, .inl ⟨by simpa using hl, rfl⟩⟩
  · next hl => cases h; exact ⟨rfl, .inr ⟨by simpa using hl, rfl⟩⟩

/-- What TX_SEND does once enabled. -/
theorem sendFrame_done {c : Byte} {t p : TxPath} {o : Out} (h : sendFrame c t = .done p o) :
    (t.ovf = true ∧ o = raisePayloadTooLarge ∧ p = { t with len := 0x0000#16, ovf := false }) ∨
    (t.ovf = false ∧ o = Out.quiet ∧ p = { t with cmd := c, idx := 0x0000#16, phase := .start }) := by
  unfold sendFrame at h
  split at h
  · next ho => cases h; exact .inl ⟨ho, rfl, rfl⟩
  · next ho => cases h; exact .inr ⟨by simpa using ho, rfl, rfl⟩

/-- What RX_BYTE does to the receive path, by parser state. -/
theorem feed_done {p : CkParams} {d : Nat} {b : Byte} {r q : RxPath} {o : Out} (h : feed p d b r = .done q o) :
    (r.state = .awaitStart ∧ o = Out.quiet ∧ q = rxAwaitStart p b r) ∨
    (r.state = .readLenHi ∧ o = Out.quiet ∧ q = rxReadLenHi p b r) ∨
    (r.state = .readLenLo ∧ o = Out.quiet ∧ q = rxReadLenLo p b r) ∨
    (r.state = .readCmd ∧ o = Out.quiet ∧ q = rxReadCmd p b r) ∨
    (r.state = .readPayload ∧ r.index ≠ 0xFFFF#16 ∧ o = Out.quiet ∧ q = rxReadPayload p b r) ∨
    (r.state = .readChecksum ∧ o = emitRx (rxVerdict p d b r) ∧ q = { r with state := .awaitStart }) := by
  unfold feed at h
  cases hp : r.state <;> simp only [hp] at h
  case readPayload =>
    split at h
    · next hi => cases h; simp [(indexExists_iff _).1 hi]
    · cases h
  all_goals cases h; simp

/-- What TX_EMIT does to the transmit path, by framer phase. -/
theorem emit_done {p : CkParams} {d : Nat} {t q : TxPath} {o : Out} (h : emit p d t = .done q o) :
    (t.phase = .start ∧ emitStart p t = .done q o) ∨
    (t.phase = .lenHi ∧ emitCovered p (hiByte t.len) .lenLo t = .done q o) ∨
    (t.phase = .lenLo ∧ emitCovered p (loByte t.len) .cmd t = .done q o) ∨
    (t.phase = .cmd ∧ emitCmd p t = .done q o) ∨
    (t.phase = .payload ∧ t.idx ≠ 0xFFFF#16 ∧ emitPayload p d t = .done q o) ∨
    (t.phase = .ck ∧ emitCk p t = .done q o) := by
  unfold emit at h
  cases hp : t.phase <;> simp only [hp] at h
  case payload =>
    refine .inr (.inr (.inr (.inr (.inl ⟨rfl, ?_, h⟩))))
    unfold emitPayload at h
    split at h
    · next hi => exact (indexExists_iff _).1 hi
    · cases h
  all_goals first | (cases h; done) | simp [h]

/-- exec, step and observe are those with the block's own checksum parameters. -/
theorem exec_eq_execWith (i : Instr) (s : State) : exec i s = execWith Config.ck i s := by cases i <;> rfl

theorem observe_eq_observeWith (ops : List Instr) (s : State) : observe ops s = observeWith Config.ck ops s := by
  rw [observe, observeWith, show exec = execWith Config.ck from funext₂ exec_eq_execWith]

theorem step_eq_stepWith (s : State) : step s = stepWith Config.ck s := by
  unfold step stepWith; cases fetch s <;> simp [exec_eq_execWith]

/-- RX_BYTE of each byte in turn is the observation with the block's own checksum parameters. -/
theorem observe_rxBytes (bs : List Byte) (s : State) :
    observe (bs.map .rxByte) s = observeRxWith Config.ck bs s := observe_eq_observeWith _ s

@[simp] theorem runBy_nil (f : Instr → State → Host.Outcome State Fault Refusal) (s : State) :
    runBy f [] s = some ([], s) := rfl

/-- A run whose first operation completes. -/
theorem runBy_cons_next {f : Instr → State → Host.Outcome State Fault Refusal} {i : Instr} {s t : State}
    (h : f i s = .next t) (is : List Instr) :
    runBy f (i :: is) s = (runBy f is t).map (fun x => (stepOuts t ++ x.1, x.2)) := by
  simp only [runBy, h]; cases runBy f is t <;> rfl

/-- A run one after another: where a run completes, all its operations do. -/
theorem runBy_cons_some {f : Instr → State → Host.Outcome State Fault Refusal} {i : Instr} {is : List Instr}
    {s u : State} {outs : List Out} (h : runBy f (i :: is) s = some (outs, u)) :
    ∃ t rest, f i s = .next t ∧ runBy f is t = some (rest, u) ∧ outs = stepOuts t ++ rest := by
  rw [runBy] at h
  split at h
  · next t ht =>
    split at h
    · next rest v hv => cases h; exact ⟨t, rest, ht, hv, rfl⟩
    · cases h
  · cases h
  · cases h

theorem runBy_append {f : Instr → State → Host.Outcome State Fault Refusal} {a : List Instr} {s t : State}
    {outs : List Out} (h : runBy f a s = some (outs, t)) (b : List Instr) :
    runBy f (a ++ b) s = (runBy f b t).map (fun x => (outs ++ x.1, x.2)) := by
  induction a generalizing s outs with
  | nil => cases h; rw [List.nil_append]; cases runBy f b t <;> rfl
  | cons i a ih =>
    obtain ⟨v, rest, h1, h2, rfl⟩ := runBy_cons_some h
    rw [List.cons_append, runBy_cons_next h1, ih h2]
    cases runBy f b t <;> simp

/-- What a step can do: take a turn with nothing to perform, perform (or hold) the fetched operation, or
refuse a reserved word. -/
theorem step_next_cases {s t : State} (h : step s = .next t) :
    (∃ u, fetch s = .nothing u ∧ t = u.rest) ∨ (∃ i u, fetch s = .operation i u ∧ exec i u = .next t) := by
  unfold step at h
  split at h
  · next u hu => exact .inl ⟨u, hu, by simpa using h.symm⟩
  · next i u hu => exact .inr ⟨i, u, hu, h⟩
  · cases h

/-- Fetching touches no register of the block. -/
theorem fetch_nothing {s u : State} (h : fetch s = .nothing u) :
    u.rx = s.rx ∧ u.tx = s.tx ∧ u.draws = s.draws := by
  unfold fetch at h
  split at h
  · cases h; exact ⟨rfl, rfl, rfl⟩
  · split at h
    · cases h; exact ⟨rfl, rfl, rfl⟩
    · split at h <;> cases h

theorem fetch_operation {s u : State} {i : Instr} (h : fetch s = .operation i u) :
    u.rx = s.rx ∧ u.tx = s.tx ∧ u.draws = s.draws := by
  unfold fetch at h
  split at h
  · cases h
  · split at h
    · cases h
    · split at h
      · cases h
      · cases h
        unfold offered
        split <;> exact ⟨rfl, rfl, rfl⟩

end Sys2Proof.Machine
end

