-- ==== Sys2Proof/Laws/PerInstr.lean ====
section
/-! SUPPORT. A statement about every instruction as syntax: its encoding is an offer that spells an operation. -/

namespace Sys2Proof.Laws.EncodedOffer

/-- The encoding passes the checks of 30_encoding.md R82. -/
def Statement (i : Instr) : Prop := Offer.wellFormed (encode i) = true

theorem rxByte : ∀ b, Statement (.rxByte b) := by unfold Statement; decide
theorem rxFlush : Statement .rxFlush := by unfold Statement; decide
theorem txPush : ∀ b, Statement (.txPush b) := by unfold Statement; decide
theorem txSend : ∀ c, Statement (.txSend c) := by unfold Statement; decide
theorem txClear : Statement .txClear := by unfold Statement; decide
theorem txEmit : Statement .txEmit := by unfold Statement; decide
theorem reset : Statement .reset := by unfold Statement; decide
theorem setDrive : Statement .setDrive := rfl
theorem getDrives : Statement .getDrives := rfl
theorem encodeEvent : Statement .encodeEvent := rfl
theorem getTrust : Statement .getTrust := rfl
theorem getPersonality : Statement .getPersonality := rfl
theorem resetPersonality : Statement .resetPersonality := rfl
theorem ping : Statement .ping := rfl

end Sys2Proof.Laws.EncodedOffer
end

