-- ==== Sys2Proof/Tests/Slice0.lean ====
section
/-! SUPPORT. Tests of single steps with expected values from spec/95_test_vectors.md and the examples of the rules, and
a witness for the hypotheses of every statement. -/

namespace Sys2Proof.Tests

open Sys2Proof.Machine

-- Well-formedness ----------------------------------------------------------------------------------------

/-- OW-4 (R82): a reserved OP fails the check on OP, and the decoder refuses it under that name. -/
theorem test_reserved_op_refused :
    OpWord.opAssigned 0x0FF#12 = false ∧ OpWord.opAssigned 0x800#12 = false ∧
    OpWord.wellFormed 0xFFF#12 = false ∧ decode (.word 0x0FF#12) = .error (.reservedOp 0x0#4) ∧
    decode (.word 0xFFF#12) = .error (.reservedOp 0xF#4) := by decide

/-- OW-5 (R82): nonzero DATA where it must be 0x00 fails the check on DATA, and the decoder refuses it by name. -/
theorem test_reserved_data_refused :
    OpWord.dataLegal 0x201#12 = false ∧ OpWord.dataLegal 0x701#12 = false ∧
    Offer.wellFormed (.word 0x5FF#12) = false ∧
    decode (.word 0x201#12) = .error (.reservedData 0x2#4 0x01#8) ∧
    decode (.word 0x5FF#12) = .error (.reservedData 0x5#4 0xFF#8) := by decide

/-- OW-6: every DATA is legal for TX_SEND, and every COMMAND byte (R72). -/
theorem test_legal_offers :
    OpWord.wellFormed 0x400#12 = true ∧ OpWord.wellFormed 0x1FF#12 = true ∧
    Offer.wellFormed (.command 0x00#8) = true ∧ Instr.wellFormed .ping = true := by decide

-- Decoding -----------------------------------------------------------------------------------------------

/-- The words of R81, OP in bits 11..8 and DATA in bits 7..0 (R80), written out bit by bit. -/
theorem test_decode_words :
    decode (.word 0b0001_10101010#12) = .ok (.rxByte 0b10101010#8) ∧
    decode (.word 0b0010_00000000#12) = .ok .rxFlush ∧
    decode (.word 0b0011_00000101#12) = .ok (.txPush 0b00000101#8) ∧
    decode (.word 0b0100_10000001#12) = .ok (.txSend 0b10000001#8) ∧
    decode (.word 0b0101_00000000#12) = .ok .txClear ∧
    decode (.word 0b0110_00000000#12) = .ok .txEmit ∧
    decode (.word 0b0111_00000000#12) = .ok .reset := by decide

/-- The COMMAND codes of R73, written out bit by bit. -/
theorem test_decode_commands :
    decode (.command 0b00000001#8) = .ok .setDrive ∧
    decode (.command 0b00000010#8) = .ok .getDrives ∧
    decode (.command 0b00010000#8) = .ok .encodeEvent ∧
    decode (.command 0b00010001#8) = .ok .getTrust ∧
    decode (.command 0b00100000#8) = .ok .getPersonality ∧
    decode (.command 0b00100001#8) = .ok .resetPersonality ∧
    decode (.command 0b00110000#8) = .ok .ping ∧
    decode (.command 0b00110001#8) = .ok (.txSend 0b00110001#8) := by decide

/-- The opcode table's rows: 12-bit words in 16 bits, COMMAND codes in 8. -/
theorem test_decode_table :
    decodeTableWord 16 0x1AA = some (.rxByte 0xAA#8) ∧ decodeTableWord 16 0x700 = some .reset ∧
    decodeTableWord 8 0x21 = some .resetPersonality ∧ decodeTableWord 16 0x1700 = none ∧
    decodeTableWord 16 0x701 = none := by decide

-- Integrity checker --------------------------------------------------------------------------------------

/-- CK-1. -/
theorem test_reflect8 : reflect8 0x01#8 = 0x80#8 ∧ reflect8 0x64#8 = 0x26#8 ∧ reflect8 0xEA#8 = 0x57#8 := by decide

/-- CK-2 and CK-3. -/
theorem test_ckStep :
    ckStep .smbus 0x00#8 0x02#8 = 0x0E#8 ∧ ckStep .smbus 0x0E#8 0x01#8 = 0x2D#8 ∧
    ckStep .maximDow 0x00#8 0x01#8 = 0x7A#8 := by decide

/-- W1: the frame of SET_DRIVE with payload 05 64 under the three instantiations. -/
theorem test_frameBytes_w1 :
    frameBytes .smbus 0x01#8 [0x05#8, 0x64#8] =
      some [0xAA#8, 0x00#8, 0x02#8, 0x01#8, 0x05#8, 0x64#8, 0x3D#8] ∧
    frameBytes .maximDow 0x01#8 [0x05#8, 0x64#8] =
      some [0xAA#8, 0x00#8, 0x02#8, 0x01#8, 0x05#8, 0x64#8, 0x57#8] ∧
    frameBytes .testA 0x01#8 [0x05#8, 0x64#8] =
      some [0xAA#8, 0x00#8, 0x02#8, 0x01#8, 0x05#8, 0x64#8, 0x51#8] := by decide +kernel

/-- CK-4 and CK-6: the empty checksum, and GET_TRUST's and RESET_PERSONALITY's empty frames. -/
theorem test_checksum :
    checksum .testA [] = 0xAA#8 ∧ checksum .smbus [0x00#8, 0x00#8, 0x11#8] = 0x77#8 ∧
    checksum .maximDow [0x00#8, 0x00#8, 0x11#8] = 0xC3#8 ∧ checksum .testA [0x00#8, 0x00#8, 0x21#8] = 0x99#8 := by
  decide +kernel

-- Small states -------------------------------------------------------------------------------------------

/-- The reset state with another receive path. -/
def withRxPath (r : RxPath) : State := { State.reset with rx := r }

/-- The reset state with another transmit path. -/
def withTxPath (t : TxPath) : State := { State.reset with tx := t }

/-- The reset state in which the parser is in `st`. -/
def rxIn (st : RxState) : State := withRxPath { RxPath.reset with state := st }

/-- The reset state in which the framer is in `ph`. -/
def txIn (ph : TxPhase) : State := withTxPath { TxPath.reset with phase := ph }

/-- The parser after `AA 00 02 01 05 64` under SMBUS (RX-17): in ReadChecksum. -/
def rxBeforeChecksum : RxPath :=
  ⟨.readChecksum, 2#16, 0x01#8, 0#16, 0x3D#8, [(0, 0x05#8), (1, 0x64#8)]⟩

/-- The framer after TX-2: payload 05 64 pushed, SET_DRIVE sent. -/
def txStarted : TxPath := ⟨.start, 2#16, false, 0x01#8, 0#16, 0x00#8, [(0, 0x05#8), (1, 0x64#8)]⟩

/-- The next state of an outcome. -/
def nextRx (o : Host.Outcome State Fault Refusal) : Option (RxPath × Out) := (nextState? o).map (fun t => (t.rx, t.out))

/-- The next transmit path and outputs of an outcome. -/
def nextTx (o : Host.Outcome State Fault Refusal) : Option (TxPath × Out) := (nextState? o).map (fun t => (t.tx, t.out))

/-- `a` has the next turn and offers `os`. -/
def offering (a : Agent) (os : List Offer) (s : State) : State :=
  { s with agents := ({ Agents.none with turns := [a] }).withPending a os }

-- One step of each operation -----------------------------------------------------------------------------

/-- RX-1: the CHECKSUM byte 3D delivers the frame, and 3C is Corrupt (the example of R136). -/
theorem test_rxByte_checksum :
    nextRx (rxByteWith .smbus 0x3D#8 (withRxPath rxBeforeChecksum)) =
      some ({ rxBeforeChecksum with state := .awaitStart },
        ⟨.frameReady ⟨0x01#8, [0x05#8, 0x64#8]⟩, none, .none⟩) ∧
    nextRx (rxByteWith .smbus 0x3C#8 (withRxPath rxBeforeChecksum)) =
      some ({ rxBeforeChecksum with state := .awaitStart }, ⟨.corrupt, none, .none⟩) := by decide

/-- The arms of R132, R133 and R135 on the examples of these rules: LENGTH is big-endian, and the second payload byte
goes to RXB[1] and leads to ReadChecksum. -/
theorem test_rxByte_arms :
    nextRx (rxByteWith .smbus 0xAA#8 (rxIn .readLenHi)) =
      some (⟨.readLenLo, 0xAA00#16, 0x00#8, 0#16, 0x5F#8, []⟩, Out.quiet) ∧
    nextRx (rxByteWith .smbus 0x02#8 (rxIn .readLenLo)) =
      some (⟨.readCmd, 0x0002#16, 0x00#8, 0x0002#16, 0x0E#8, []⟩, Out.quiet) ∧
    nextRx (rxByteWith .smbus 0x64#8 (withRxPath ⟨.readPayload, 2#16, 0x01#8, 1#16, 0xD8#8, [(0, 0x05#8)]⟩)) =
      some (rxBeforeChecksum, Out.quiet) := by decide

/-- RX-11: RX_FLUSH abandons the partial frame and keeps every other register. -/
theorem test_rxFlush :
    nextRx (exec .rxFlush (withRxPath ⟨.readPayload, 2#16, 0x01#8, 1#16, 0xD8#8, [(0, 0x05#8)]⟩)) =
      some (⟨.awaitStart, 2#16, 0x01#8, 1#16, 0xD8#8, [(0, 0x05#8)]⟩, Out.quiet) := by decide

/-- TX-1: the byte goes to TXB[0]. -/
theorem test_txPush :
    nextTx (exec (.txPush 0x05#8) State.reset) =
      some (⟨.idle, 1#16, false, 0x00#8, 0#16, 0x00#8, [(0, 0x05#8)]⟩, Out.quiet) := by decide

/-- R101, TX-9: the 65536th byte is dropped and sets tx_ovf. -/
theorem test_txPush_full :
    nextTx (exec (.txPush 0x00#8) (withTxPath { TxPath.reset with len := 0xFFFF#16 })) =
      some ({ TxPath.reset with len := 0xFFFF#16, ovf := true }, Out.quiet) := by decide

/-- TX-2: the frame starts with the command and tx_idx = 0. -/
theorem test_txSend :
    nextTx (exec (.txSend 0x01#8) (withTxPath { txStarted with phase := .idle, cmd := 0x00#8, idx := 7#16 })) =
      some (txStarted, Out.quiet) := by decide

/-- TX-9: PayloadTooLarge; tx_cmd stays 00 and the framer Idle and empty. -/
theorem test_txSend_too_large :
    nextTx (exec (.txSend 0x10#8) (withTxPath { TxPath.reset with len := 0xFFFF#16, ovf := true })) =
      some (TxPath.reset, ⟨.none, none, .payloadTooLarge⟩) := by decide

/-- TX-11: TX_CLEAR clears tx_len and tx_ovf without an error. -/
theorem test_txClear :
    nextTx (exec .txClear (withTxPath { TxPath.reset with len := 0xFFFF#16, ovf := true })) =
      some (TxPath.reset, Out.quiet) := by decide

/-- TX-3: LENGTH_LO 02 is emitted and tx_acc becomes 0E; the payload byte 64 at index 1 ends the payload. -/
theorem test_txEmit :
    nextTx (txEmitWith .smbus (withTxPath { txStarted with phase := .lenLo })) =
      some ({ txStarted with phase := .cmd, acc := 0x0E#8 }, ⟨.none, some 0x02#8, .none⟩) ∧
    nextTx (txEmitWith .smbus (withTxPath { txStarted with phase := .payload, idx := 1#16, acc := 0xD8#8 })) =
      some ({ txStarted with phase := .ck, idx := 2#16, acc := 0x3D#8 }, ⟨.none, some 0x64#8, .none⟩) := by decide

/-- TX-12 and TX-3: TX_EMIT is held in Idle; in Ck it emits the CHECKSUM and leaves the framer Idle and empty. -/
theorem test_txEmit_hold_and_end :
    (nextState? (exec .txEmit State.reset)).map State.handshake = some .held ∧
    nextTx (txEmitWith .smbus (withTxPath { txStarted with phase := .ck, idx := 2#16, acc := 0x3D#8 })) =
      some ({ txStarted with phase := .idle, len := 0#16, idx := 0#16, acc := 0x3D#8 },
        ⟨.none, some 0x3D#8, .none⟩) := by decide

/-- P6, R210: RESET in the middle of both paths leaves the reset registers, no output, and new buffer draws. -/
theorem test_reset :
    nextState? (exec .reset { State.reset with rx := rxBeforeChecksum, tx := txStarted }) =
      some { State.reset with handshake := .performed, draws := 1 } := by decide

/-- The command and the phase after an outcome. -/
def sentCommand (o : Host.Outcome State Fault Refusal) : Option (Byte × TxPhase) :=
  (nextTx o).map (fun x => (x.1.cmd, x.1.phase))

/-- TX-4's start and R73: each command name sends its code. -/
theorem test_setDrive : sentCommand (exec .setDrive State.reset) = some (0x01#8, .start) := by decide
theorem test_getDrives : sentCommand (exec .getDrives State.reset) = some (0x02#8, .start) := by decide
theorem test_encodeEvent : sentCommand (exec .encodeEvent State.reset) = some (0x10#8, .start) := by decide
theorem test_getTrust : sentCommand (exec .getTrust State.reset) = some (0x11#8, .start) := by decide
theorem test_getPersonality : sentCommand (exec .getPersonality State.reset) = some (0x20#8, .start) := by decide
theorem test_resetPersonality : sentCommand (exec .resetPersonality State.reset) = some (0x21#8, .start) := by decide
theorem test_ping : sentCommand (exec .ping State.reset) = some (0x30#8, .start) := by decide

/-- TX-13: a held TX_PUSH changes no register and stays its agent's oldest operation. -/
theorem test_held_push_waits :
    (nextState? (step (offering .txProducer [.word 0x301#12] (txIn .start)))).map
      (fun t => (t.tx, t.handshake, t.agents.txProducer)) =
      some ((txIn .start).tx, .held, [.word 0x301#12]) := by decide

/-- The opcode table's TX_PUSH word 0x305 is run by the first step after reset. -/
theorem test_fetch_word :
    (nextState? (step (State.reset.withFetchWord 16 0x305))).map (fun t => (t.tx.len, t.tx.buf)) =
      some (1#16, [(0, 0x05#8)]) := by decide

/-- R83 and P1: `TX_SEND SET_DRIVE` is 401, written as the digits 4, 0, 1, and `RX_BYTE 256` is no line. -/
theorem test_assemble :
    assemble ⟨.TX_SEND, some (.name .SET_DRIVE)⟩ = some 0x401#12 ∧ hexDigits 0x401#12 = [0x4#4, 0x0#4, 0x1#4] ∧
    assemble ⟨.RX_BYTE, some (.number 256)⟩ = none ∧ assemble ⟨.RESET, some (.number 0)⟩ = none := by decide

/-- P1's line of text with its comment, and `0xAA` = `170` (R83); 256 is out of range and PING is no byte to push. -/
theorem test_assembleText :
    assembleText "TX_SEND SET_DRIVE   ; 401" = some 0x401#12 ∧ assembleText "RX_BYTE 0xAA" = some 0x1AA#12 ∧
    assembleText "RX_BYTE 170" = some 0x1AA#12 ∧ assembleText "TX_EMIT" = some 0x600#12 ∧
    assembleText "TX_PUSH 256" = none ∧ assembleText "TX_PUSH PING" = none ∧ assembleText "TX_EMIT 0" = none := by
  decide +kernel

/-- P5's first line: `TX_FRAME ENCODE_EVENT, [0xAA]` is `3AA 410`. -/
theorem test_expand :
    (expand .smbus (.txFrame 0x10#8 [0xAA#8])).map (List.map encode) = some [.word 0x3AA#12, .word 0x410#12] := by
  decide

/-- R187: the TX_PUSH in the cycle of the final TX_EMIT is held to the next cycle. -/
theorem test_cycle_ops :
    cycleOps ⟨false, true, some 0xAA#8, true, some (.push 0x01#8)⟩ (txIn .ck) =
      [.rxFlush, .rxByte 0xAA#8, .txEmit] ∧
    cycleOps ⟨true, true, some 0xAA#8, true, some .clear⟩ State.reset = [.reset] := by decide

-- Witnesses: states and operands that meet the hypotheses of each statement --------------------------------

/-- A state in the middle of a frame on both paths: one of two payload bytes received, and one of two emitted. -/
def midFrame : State :=
  { State.reset with
    rx := ⟨.readPayload, 2#16, 0x01#8, 1#16,
           ckFold Config.ck Config.ck.init [0x00#8, 0x02#8, 0x01#8, 0x05#8], [(0, 0x05#8)]⟩,
    tx := ⟨.payload, 2#16, false, 0x01#8, 1#16,
           ckFold Config.ck Config.ck.init [0x00#8, 0x02#8, 0x01#8, 0x05#8], [(0, 0x05#8), (1, 0x64#8)]⟩ }

/-- The bytes both paths of `midFrame` have covered. -/
theorem midFrame_covered :
    header midFrame.rx.len midFrame.rx.cmd ++
      memReadTo midFrame.draws .rxb midFrame.rx.buf midFrame.rx.received = [0x00#8, 0x02#8, 0x01#8, 0x05#8] ∧
    header midFrame.tx.len midFrame.tx.cmd ++
      memReadTo midFrame.draws .txb midFrame.tx.buf midFrame.tx.idx.toNat = [0x00#8, 0x02#8, 0x01#8, 0x05#8] := by
  decide

theorem midFrame_rxInv : RxInv midFrame.rx :=
  ⟨by decide, by decide, by decide, fun _ i hi => by
    obtain rfl : i = 0 := by simp [midFrame, RxPath.received] at hi; exact hi
    decide⟩

theorem midFrame_txInv : TxInv midFrame.tx :=
  ⟨by decide, by decide, by decide, by decide, fun i hi => by
    have : i = 0 ∨ i = 1 := by simp [midFrame] at hi; omega
    rcases this with rfl | rfl <;> decide⟩

theorem midFrame_inv : midFrame.Inv :=
  ⟨midFrame_rxInv,
   ⟨by simp [midFrame], by simp [midFrame], by simp [midFrame],
    fun _ => by rw [midFrame_covered.1]; simp only [midFrame]⟩,
   midFrame_txInv,
   ⟨by simp [midFrame], by simp [midFrame], by simp [midFrame],
    fun _ => by rw [midFrame_covered.2]; simp only [midFrame]⟩,
   by decide, by decide⟩

/-- `rx_acc` and `tx_acc` after the covered bytes of W1. -/
def w1Acc : Byte := ckFold Config.ck Config.ck.init [0x00#8, 0x02#8, 0x01#8, 0x05#8, 0x64#8]

/-- The parser about to compare a CHECKSUM, and the framer about to emit one. -/
def atChecksum : State :=
  { State.reset with rx := { rxBeforeChecksum with acc := w1Acc },
                     tx := { txStarted with phase := .ck, idx := 2#16, acc := w1Acc } }

theorem atChecksum_covered :
    header atChecksum.rx.len atChecksum.rx.cmd ++
      memReadTo atChecksum.draws .rxb atChecksum.rx.buf atChecksum.rx.received =
        [0x00#8, 0x02#8, 0x01#8, 0x05#8, 0x64#8] ∧
    header atChecksum.tx.len atChecksum.tx.cmd ++
      memReadTo atChecksum.draws .txb atChecksum.tx.buf atChecksum.tx.idx.toNat =
        [0x00#8, 0x02#8, 0x01#8, 0x05#8, 0x64#8] := by decide

theorem atChecksum_inv : atChecksum.Inv :=
  ⟨⟨by decide, by decide, by decide, fun _ i hi => by
      have : i = 0 ∨ i = 1 := by simp [atChecksum, rxBeforeChecksum, RxPath.received] at hi; omega
      rcases this with rfl | rfl <;> decide⟩,
   ⟨by simp [atChecksum, rxBeforeChecksum], by simp [atChecksum, rxBeforeChecksum],
    by simp [atChecksum, rxBeforeChecksum],
    fun _ => by rw [atChecksum_covered.1]; simp only [atChecksum, w1Acc]⟩,
   ⟨by decide, by decide, by decide, by decide, fun i hi => by
      have : i = 0 ∨ i = 1 := by simp [atChecksum, txStarted] at hi; omega
      rcases this with rfl | rfl <;> decide⟩,
   ⟨by simp [atChecksum], by simp [atChecksum], by simp [atChecksum],
    fun _ => by rw [atChecksum_covered.2]; simp only [atChecksum, w1Acc]⟩,
   by decide, by decide⟩

theorem atChecksum_frameReady :
    (rxVerdict Config.ck 0 (ckFinal Config.ck atChecksum.rx.acc) atChecksum.rx) =
      .frameReady ⟨0x01#8, [0x05#8, 0x64#8]⟩ := by
  rw [rxVerdict, if_pos rfl]; decide

theorem witness_EncodeDecodeRoundTrip :
    Instr.wellFormed (.txSend 0xFF#8) = true ∧ Instr.wellFormed .ping = true := by decide

theorem witness_DecodedWordReencodes :
    decode (.word 0x1FF#12) = .ok (.rxByte 0xFF#8) ∧ decode (.word 0x700#12) = .ok .reset := by decide

theorem witness_ReservedWordsRefused :
    ((0x0FF#12).toNat / 256 = 0 ∧ 8 ≤ (0x800#12).toNat / 256) ∧
    ((0x201#12).toNat / 256 = 2 ∧ (0x201#12).toNat % 256 ≠ 0 ∧
      (0x7FF#12).toNat / 256 = 7 ∧ (0x7FF#12).toNat % 256 ≠ 0) ∧
    (¬ ((0x100#12).toNat / 256 = 0 ∨ 8 ≤ (0x100#12).toNat / 256) ∧ (0x700#12).toNat % 256 = 0) ∧
    (offering .txProducer [.word 0x0FF#12] State.reset).agents.turns = [.txProducer] ∧
    (offering .txProducer [.word 0x0FF#12] State.reset).agents.pending .txProducer = [.word 0x0FF#12] := by decide

theorem witness_StepRunsDecodedOperation :
    (offering .rxLine [.word 0x1AA#12] State.reset).agents.turns = [.rxLine] ∧
    (offering .rxLine [.word 0x1AA#12] State.reset).agents.pending .rxLine = [.word 0x1AA#12] ∧
    decode (.word 0x1AA#12) = .ok (.rxByte 0xAA#8) ∧ Instr.wellFormed (.rxByte 0xAA#8) = true ∧
    enabled (.rxByte 0xAA#8) State.reset = true ∧ enabled .txEmit State.reset = false := by decide

theorem witness_StepWithoutOfferRests :
    State.reset.agents.turns = [] ∧ (offering .txLine [] State.reset).agents.turns = [.txLine] ∧
    (offering .txLine [] State.reset).agents.pending .txLine = [] := by decide

theorem witness_HeldOperationsWait :
    enabled (.txPush 0x01#8) (txIn .ck) = false ∧ enabled .txEmit (txIn .idle) = false ∧
    (offering .txLine [.word 0x600#12] (txIn .idle)).agents.pending .txLine = [.word 0x600#12] ∧
    decode (.word 0x600#12) = .ok .txEmit ∧
    (∃ t, step (offering .txLine [.word 0x600#12] (txIn .idle)) = .next t) ∧
    (enabled .rxFlush (txIn .ck) = true ∧ ∃ t, exec .rxFlush (txIn .ck) = .next t) ∧
    agentOf .txClear = .txProducer ∧ agentOf .txEmit = .txLine ∧ agentOf .reset ≠ .txProducer :=
  ⟨by decide, by decide, by decide, by decide, ⟨_, rfl⟩, ⟨by decide, _, rfl⟩, by decide, by decide, by decide⟩

theorem witness_HoldsAreLifted :
    (txIn .ck).tx.phase = .ck ∧ ((txIn .idle).tx.phase = .idle ∧ (txIn .idle).tx.ovf = false) ∧
    (∃ t, exec .txEmit (txIn .ck) = .next t ∧ (txIn .ck).tx.phase ≠ .idle ∧ t.tx.phase = .idle) :=
  ⟨rfl, by decide, _, rfl, by decide, rfl⟩

theorem witness_RxAwaitStartArm : (rxIn .awaitStart).rx.state = .awaitStart := rfl
theorem witness_RxReadLenHiArm : (rxIn .readLenHi).rx.state = .readLenHi := rfl
theorem witness_RxReadLenLoArm :
    (rxIn .readLenLo).rx.state = .readLenLo ∧ (rxIn .readLenHi).rx.state = .readLenHi := by decide
theorem witness_RxReadCmdArm : (rxIn .readCmd).rx.state = .readCmd := rfl

/-- The first and the last index, and a whole payload. -/
theorem witness_RxReadPayloadArm :
    (midFrame.rx.state = .readPayload ∧ midFrame.rx.len - midFrame.rx.rem ≠ 0xFFFF#16) ∧
    (0xFFFF#16 - 1#16 = 0xFFFE#16 ∧ 0xFFFE#16 ≠ 0xFFFF#16) ∧
    (let r : RxPath := ⟨.readPayload, 2#16, 0x01#8, 2#16, 0x00#8, []⟩
     r.rem = r.len ∧ [0x05#8, 0x64#8].length = r.len.toNat ∧ [0x05#8, 0x64#8] ≠ []) := by decide

theorem witness_RxReadChecksumArm :
    atChecksum.rx.state = .readChecksum ∧ atChecksum.Inv := ⟨rfl, atChecksum_inv⟩

theorem witness_DeliveredFramesVerify :
    (∃ t, exec (.rxByte (ckFinal Config.ck atChecksum.rx.acc)) atChecksum = .next t ∧
      t.out.rxEv = .frameReady ⟨0x01#8, [0x05#8, 0x64#8]⟩) ∧ atChecksum.Inv :=
  ⟨⟨_, rfl, atChecksum_frameReady⟩, atChecksum_inv⟩

theorem witness_CorruptRecordsNothing :
    ∃ t, exec (.rxByte (ckFinal Config.ck atChecksum.rx.acc ^^^ 0x01#8)) atChecksum = .next t ∧
      t.out.rxEv = .corrupt :=
  ⟨_, rfl, by
    have key : ∀ b : Byte, b ^^^ 0x01#8 ≠ b := by decide
    show rxVerdict Config.ck 0 (ckFinal Config.ck atChecksum.rx.acc ^^^ 0x01#8) atChecksum.rx = _
    exact if_neg (key _)⟩

theorem witness_FrameRoundTrip :
    State.reset.rx.state = .awaitStart ∧ ∃ wire, frameBytes Config.ck 0x01#8 [0x05#8, 0x64#8] = some wire :=
  ⟨rfl, _, rfl⟩

theorem witness_NoiseThenFrame :
    State.reset.rx.state = .awaitStart ∧ 0xAA#8 ∉ [0x00#8, 0x55#8, 0xFF#8] ∧
    ∃ wire, frameBytes Config.ck 0x01#8 [0x05#8, 0x64#8] = some wire := ⟨rfl, by decide, _, rfl⟩

theorem witness_ConcatenatedFrames :
    State.reset.rx.state = .awaitStart ∧
    ∀ f ∈ [((0x02#8 : Byte), ([] : List Byte), [0x00#8]), (0x11#8, [0xAA#8], [])],
      f.2.1.length ≤ 65535 ∧ 0xAA#8 ∉ f.2.2 := by decide

/-- The receive-path invariant in each parser state, with its bound. -/
theorem witness_ParserNeverWedges :
    (RxInv (rxIn .awaitStart).rx ∧ (rxIn .awaitStart).rx.recoveryBound = 0) ∧
    (RxInv (rxIn .readLenHi).rx ∧ (rxIn .readLenHi).rx.recoveryBound = 65539 ∧
      (List.replicate 65539 (0xFF#8 : Byte)).length = (rxIn .readLenHi).rx.recoveryBound) ∧
    (RxInv (rxIn .readLenLo).rx ∧ (rxIn .readLenLo).rx.recoveryBound = 65538) ∧
    (RxInv (rxIn .readCmd).rx ∧ (rxIn .readCmd).rx.recoveryBound = 2) ∧
    (RxInv midFrame.rx ∧ midFrame.rx.recoveryBound = 2 ∧ [0x00#8, 0xAA#8].length = midFrame.rx.recoveryBound) ∧
    (RxInv atChecksum.rx ∧ atChecksum.rx.recoveryBound = 1) :=
  ⟨⟨⟨by decide, by decide, by decide, by simp [rxIn, withRxPath]⟩, rfl⟩,
   ⟨⟨by decide, by decide, by decide, by simp [rxIn, withRxPath]⟩, rfl, List.length_replicate⟩,
   ⟨⟨by decide, by decide, by decide, by simp [rxIn, withRxPath]⟩, rfl⟩,
   ⟨⟨by decide, by decide, by decide, by simp [rxIn, withRxPath]⟩, rfl⟩,
   ⟨midFrame_rxInv, rfl, rfl⟩, ⟨atChecksum_inv.rx, rfl⟩⟩

theorem witness_FourBytesLeaveTheReceiveBuffer :
    State.reset.rx.state = .awaitStart ∧ [0xAA#8, 0x00#8, 0x01#8, 0x10#8].length ≤ 4 ∧
    ∃ x, observe ([0xAA#8, 0x00#8, 0x01#8, 0x10#8].map .rxByte) State.reset = some x := ⟨rfl, by decide, _, rfl⟩

/-- The first and the last offset of a PING frame under CRC-8/SMBUS. -/
theorem witness_SingleBitFlipIsCorrupt :
    CkParams.smbus.poly ≠ 0x00#8 ∧ State.reset.rx.state = .awaitStart ∧
    frameBytes .smbus 0x30#8 [] = some [0xAA#8, 0x00#8, 0x00#8, 0x30#8, 0x90#8] ∧
    [0xAA#8, 0x00#8, 0x00#8, 0x30#8, 0x90#8][3]? = some 0x30#8 ∧
    [0xAA#8, 0x00#8, 0x00#8, 0x30#8, 0x90#8][4]? = some 0x90#8 := by decide +kernel

theorem witness_TxPushAppends :
    (txIn .ck).tx.phase ≠ .idle ∧ (txIn .idle).tx.phase = .idle ∧ (txIn .idle).tx.len ≠ 65535#16 ∧
    (withTxPath { TxPath.reset with len := 65535#16 }).tx.len = 65535#16 ∧ 65534#16 ≠ 65535#16 := by decide

theorem witness_TxSendStartsOrFails :
    (txIn .ck).tx.phase ≠ .idle ∧ ((txIn .idle).tx.phase = .idle ∧ (txIn .idle).tx.ovf = false) ∧
    (withTxPath { TxPath.reset with ovf := true }).tx.phase = .idle ∧
    (withTxPath { TxPath.reset with ovf := true }).tx.ovf = true := by decide

theorem witness_TxClearDiscards : (txIn .start).tx.phase ≠ .idle ∧ (txIn .idle).tx.phase = .idle := by decide

theorem witness_TxEmitByPhase :
    (txIn .idle).tx.phase = .idle ∧ (txIn .start).tx.phase = .start ∧ (txIn .lenHi).tx.phase = .lenHi ∧
    (txIn .lenLo).tx.phase = .lenLo ∧ (txIn .cmd).tx.phase = .cmd ∧ (txIn .ck).tx.phase = .ck ∧
    midFrame.tx.phase = .payload ∧ midFrame.tx.idx ≠ 0xFFFF#16 ∧ 0xFFFE#16 ≠ 0xFFFF#16 := by decide

theorem witness_PayloadTooLargeOnlyFromSend :
    ∃ t, exec (.txSend 0x30#8) (withTxPath { TxPath.reset with len := 65535#16, ovf := true }) = .next t ∧
      t.out.txErr = .payloadTooLarge := ⟨_, rfl, rfl⟩

theorem witness_FramerRealisesEncode :
    (State.reset.tx.phase = .idle ∧ State.reset.tx.len = 0#16 ∧ State.reset.tx.ovf = false) ∧
    ∃ wire, frameBytes Config.ck 0x10#8 [0xAA#8] = some wire := ⟨by decide, _, rfl⟩

theorem witness_OversizeEmitsNothing :
    (State.reset.tx.phase = .idle ∧ State.reset.tx.len = 0#16 ∧ State.reset.tx.ovf = false) ∧
    65536 ≤ (List.replicate 65536 (0x00#8 : Byte)).length := ⟨by decide, Nat.le_of_eq List.length_replicate.symm⟩

theorem witness_FrameOnTheLineIsNeverAltered :
    (withTxPath txStarted).tx.phase = .start ∧ TxInv txStarted ∧
    .reset ∉ [Instr.txEmit, .txPush 0x01#8, .rxByte 0xAA#8, .txEmit] ∧
    [Instr.txEmit, .txPush 0x01#8, .rxByte 0xAA#8, .txEmit].count .txEmit ≤ txStarted.len.toNat + 5 ∧
    (∃ wire, frameBytes Config.ck txStarted.cmd (memReadTo 0 .txb txStarted.buf txStarted.len.toNat) = some wire) ∧
    ∃ x, observe [.txEmit, .txPush 0x01#8, .rxByte 0xAA#8, .txEmit] (withTxPath txStarted) = some x :=
  ⟨rfl, ⟨by decide, by decide, by decide, by decide, fun i hi => by
      have : i = 0 ∨ i = 1 := by simp [txStarted] at hi; omega
      rcases this with rfl | rfl <;> decide⟩,
    by decide, by decide, ⟨_, rfl⟩, _, rfl⟩

theorem witness_EmittedByteIsNamedByPhase :
    (∃ t, exec .txEmit midFrame = .next t ∧ t.out.txByte ≠ none) ∧ ∃ t, exec .txEmit (txIn .idle) = .next t :=
  ⟨⟨_, rfl, by decide⟩, _, rfl⟩

theorem witness_CommandNamesStartFrames :
    (Instr.ping, (0x30#8 : Byte)) ∈ [(Instr.setDrive, 0x01#8), (.getDrives, 0x02#8), (.encodeEvent, 0x10#8),
      (.getTrust, 0x11#8), (.getPersonality, 0x20#8), (.resetPersonality, 0x21#8), (.ping, 0x30#8)] ∧
    ((txIn .idle).tx.phase = .idle ∧ (txIn .idle).tx.ovf = false) ∧
    ((withTxPath { TxPath.reset with ovf := true }).tx.phase = .idle ∧
      (withTxPath { TxPath.reset with ovf := true }).tx.ovf = true) ∧
    (txIn .lenHi).tx.phase ≠ .idle := by decide

theorem witness_PowerOnIsReset : ∃ t, exec .reset midFrame = .next t := ⟨_, rfl⟩

theorem witness_StepKeepsInvariant :
    midFrame.Inv ∧ ∃ t, step (offering .txLine [.word 0x600#12] midFrame) = .next t ∧ t.tx.phase = .ck :=
  ⟨midFrame_inv, _, rfl, by decide⟩

theorem witness_NoStepFaultsUnderInvariant : midFrame.Inv := midFrame_inv

/-- Both faults, each in a state no run reaches. -/
theorem witness_FaultsExactlyAtMissingIndex :
    exec (.rxByte 0x00#8) (withRxPath { RxPath.reset with state := .readPayload, len := 0#16, rem := 1#16 }) =
      .fault (.noSuchIndex .rxb) ∧
    exec .txEmit (withTxPath { TxPath.reset with phase := .payload, idx := 0xFFFF#16 }) =
      .fault (.noSuchIndex .txb) := ⟨rfl, rfl⟩

theorem witness_OnlyItsOwnPathIsWritten :
    (∃ t, exec (.rxByte 0x00#8) midFrame = .next t) ∧ receivePath (.rxByte 0x00#8) = true ∧
    (∃ t, exec .txEmit midFrame = .next t) ∧ transmitPath .txEmit = true ∧
    receivePath .reset = false ∧ transmitPath .reset = false := ⟨⟨_, rfl⟩, rfl, ⟨_, rfl⟩, rfl, rfl, rfl⟩

theorem witness_BufferBytesFrame :
    (∃ t, exec (.rxByte 0x64#8) midFrame = .next t) ∧ midFrame.rx.state = .readPayload ∧
    (∃ t, exec (.txPush 0x64#8) (txIn .idle) = .next t) ∧ (txIn .idle).tx.phase = .idle ∧
    (txIn .idle).tx.len ≠ 65535#16 ∧ Instr.txPush 0x64#8 ≠ .reset :=
  ⟨⟨_, rfl⟩, rfl, ⟨_, rfl⟩, rfl, by decide, by decide⟩

theorem witness_PathsCommute :
    receivePath (.rxByte 0x64#8) = true ∧ transmitPath .txEmit = true ∧
    ∃ t, exec (.rxByte 0x64#8) midFrame = .next t ∧ ∃ u, exec .txEmit t = .next u := ⟨rfl, rfl, _, rfl, _, rfl⟩

theorem witness_PathsRunIndependently :
    .reset ∉ [Instr.txEmit, .rxByte 0x64#8] ∧ ∃ x, observe [.txEmit, .rxByte 0x64#8] midFrame = some x :=
  ⟨by decide, _, rfl⟩

theorem witness_PathIsAFunctionOfItself :
    (withRxPath midFrame.rx).draws = midFrame.draws ∧ (withRxPath midFrame.rx).rx = midFrame.rx ∧
    receivePath (.rxByte 0x64#8) = true ∧ (∃ t, exec (.rxByte 0x64#8) midFrame = .next t) ∧
    (∃ t, exec (.rxByte 0x64#8) (withRxPath midFrame.rx) = .next t) ∧
    (withTxPath midFrame.tx).tx = midFrame.tx ∧ transmitPath .txEmit = true ∧
    ∃ t, exec .txEmit (withTxPath midFrame.tx) = .next t :=
  ⟨rfl, rfl, rfl, ⟨_, rfl⟩, ⟨_, rfl⟩, rfl, rfl, _, rfl⟩

theorem witness_DrawReachesNoOutput : midFrame.Inv ∧ ∃ t, exec .txEmit midFrame = .next t :=
  ⟨midFrame_inv, _, rfl⟩

theorem witness_OneOutputPerOperation :
    (∃ t, exec .txEmit midFrame = .next t ∧ t.out.txByte ≠ none) ∧
    (∃ t, exec (.rxByte (ckFinal Config.ck atChecksum.rx.acc)) atChecksum = .next t ∧
      t.out.rxEv = .frameReady ⟨0x01#8, [0x05#8, 0x64#8]⟩) :=
  ⟨⟨_, rfl, by decide⟩, _, rfl, atChecksum_frameReady⟩

/-- One cycle for each clause: RESET with every other operation, the four receive-path cases, the busy phases with and
without TX_EMIT, and in Idle each operation of the producer, with a TX_EMIT. -/
theorem witness_CycleOrder :
    (∃ t, execCycle ⟨true, true, some 0xAA#8, true, some .clear⟩ midFrame = some ([Out.quiet], t)) ∧
    midFrame.Inv ∧
    (∃ x, execCycle ⟨false, true, some 0xAA#8, false, none⟩ midFrame = some x) ∧
    (∃ x, execCycle ⟨false, true, none, false, none⟩ midFrame = some x) ∧
    (∃ x, execCycle ⟨false, false, some 0x64#8, false, none⟩ midFrame = some x) ∧
    (midFrame.tx.phase ≠ .idle ∧ (∃ x, execCycle ⟨false, false, none, true, some .clear⟩ midFrame = some x) ∧
      ∃ x, execCycle ⟨false, false, none, false, some .clear⟩ midFrame = some x) ∧
    ((txIn .ck).tx.phase = .ck ∧ ∃ x, execCycle ⟨false, false, none, true, some (.push 0x01#8)⟩ (txIn .ck) = some x) ∧
    ((txIn .idle).tx.phase = .idle ∧ (txIn .idle).tx.len ≠ 65535#16 ∧ (txIn .idle).tx.ovf = false ∧
      (∃ x, execCycle ⟨false, false, none, true, none⟩ (txIn .idle) = some x) ∧
      (∃ x, execCycle ⟨false, false, none, true, some (.push 0x01#8)⟩ (txIn .idle) = some x) ∧
      (∃ x, execCycle ⟨false, false, none, true, some (.send 0x01#8)⟩ (txIn .idle) = some x) ∧
      ∃ x, execCycle ⟨false, false, none, true, some .clear⟩ (txIn .idle) = some x) ∧
    (let s := withTxPath { TxPath.reset with len := 65535#16, ovf := true }
     s.tx.phase = .idle ∧ s.tx.len = 65535#16 ∧ s.tx.ovf = true ∧
      ∃ x, execCycle ⟨false, false, none, true, some (.send 0x01#8)⟩ s = some x) :=
  ⟨⟨_, rfl⟩, midFrame_inv, ⟨_, rfl⟩, ⟨_, rfl⟩, ⟨_, rfl⟩, ⟨by decide, ⟨_, rfl⟩, _, rfl⟩, ⟨rfl, _, rfl⟩,
   ⟨rfl, by decide, rfl, ⟨_, rfl⟩, ⟨_, rfl⟩, ⟨_, rfl⟩, _, rfl⟩, rfl, rfl, rfl, _, rfl⟩

theorem witness_WrittenSinceMarkerAndClear :
    RxInv midFrame.rx ∧ RxSince [0] midFrame.rx ∧ TxSince [1, 0] midFrame.tx ∧
    (∃ x, observe [.rxByte 0x64#8, .txEmit] midFrame = some x) ∧
    ∃ x, observe [.rxByte 0xAA#8, .txPush 0x05#8] State.reset = some x :=
  ⟨midFrame_rxInv,
   fun _ i hi => by
    obtain rfl : i = 0 := by simp [midFrame, RxPath.received] at hi; exact hi
    decide,
   fun i hi => by
    have : i = 0 ∨ i = 1 := by simp [midFrame] at hi; omega
    rcases this with rfl | rfl <;> decide,
   ⟨_, rfl⟩, _, rfl⟩

/-- Blocks that agree on a checksum and blocks that do not. -/
theorem witness_LinkUnderAnyParameters :
    (State.reset.tx.phase = .idle ∧ State.reset.tx.len = 0#16 ∧ State.reset.tx.ovf = false) ∧
    State.reset.rx.state = .awaitStart ∧ (∃ wire, frameBytes .smbus 0x01#8 [0x05#8, 0x64#8] = some wire) ∧
    checksum .smbus (frameBody 0x01#8 [0x05#8, 0x64#8]) ≠ checksum .maximDow (frameBody 0x01#8 [0x05#8, 0x64#8]) :=
  ⟨by decide, rfl, ⟨_, rfl⟩, by decide +kernel⟩

theorem witness_ChecksumIsAffine :
    [0x00#8, 0x02#8, 0x01#8, 0x05#8, 0x64#8].length = [0x00#8, 0x00#8, 0x00#8, 0x00#8, 0x01#8].length := rfl

/-- TEST-A's polynomial is odd and not 0, and 0x64 and 0x65 differ. -/
theorem witness_ErrorsDetected :
    CkParams.testA.poly ≠ 0x00#8 ∧ CkParams.testA.poly.getLsbD 0 = true ∧ (0x64#8 : Byte) ≠ 0x65#8 ∧ 7 < 8 := by decide

theorem witness_WireFrameLayout :
    (∃ wire, frameBytes .smbus 0x30#8 [] = some wire) ∧
    65535 < (List.replicate 65536 (0x00#8 : Byte)).length :=
  ⟨⟨_, rfl⟩, Nat.le_of_eq List.length_replicate.symm⟩

theorem witness_AssemblerLines :
    255 ≤ 255 ∧ 255 < 256 ∧ assemble ⟨.RX_FLUSH, none⟩ = some 0x200#12 ∧ ';' ∉ [' ', 'P'] := by decide

theorem witness_PseudoOperations : expand .smbus (.txDrain 3) = some [.txEmit, .txEmit, .txEmit] := rfl

/-- R37 and R38: RXB[1] is written after RXB[0], and the start marker, TX_CLEAR and the last TX_EMIT begin anew. -/
theorem test_since :
    rxSince [0] (.rxByte 0x64#8) midFrame = [1, 0] ∧ rxSince [1, 0] (.rxByte 0xAA#8) (rxIn .awaitStart) = [] ∧
    rxSince [0] (.rxByte 0xAA#8) midFrame = [1, 0] ∧ txSince [] (.txPush 0x05#8) (txIn .idle) = [0] ∧
    txSince [1, 0] .txClear (txIn .idle) = [] ∧ txSince [1, 0] .txClear (txIn .start) = [1, 0] ∧
    txSince [1, 0] .txEmit (txIn .ck) = [] := by decide

end Sys2Proof.Tests
end

section
/-! The equations of `fetch` and `step`, one for each thing the agents can bring to a step, and the statements of
00_scope.md R6 and R7 that follow from them. -/

namespace Sys2Proof.Machine

section
variable {s : State} {a : Agent} {ts : List Agent} {o : Offer} {os : List Offer}

theorem fetch_of_no_turn (hturns : s.agents.turns = []) : fetch s = .nothing s := by
  simp only [fetch, hturns]

theorem fetch_of_no_offer (hturns : s.agents.turns = a :: ts) (hpending : s.agents.pending a = []) :
    fetch s = .nothing (s.withTurns ts) := by
  simp only [fetch, hturns, hpending]

theorem fetch_of_decode_ok {i : Instr} (hturns : s.agents.turns = a :: ts)
    (hpending : s.agents.pending a = o :: os) (hdecode : decode o = .ok i) :
    fetch s = .operation i (offered s a os ts i) := by
  simp only [fetch, hturns, hpending, hdecode]

theorem fetch_of_decode_error {r : Reject} (hturns : s.agents.turns = a :: ts)
    (hpending : s.agents.pending a = o :: os) (hdecode : decode o = .error r) : fetch s = .reserved r := by
  simp only [fetch, hturns, hpending, hdecode]

theorem step_of_no_turn (hturns : s.agents.turns = []) : step s = .next s.rest := by
  simp only [step, fetch_of_no_turn hturns]

theorem step_of_no_offer (hturns : s.agents.turns = a :: ts) (hpending : s.agents.pending a = []) :
    step s = .next (s.withTurns ts).rest := by
  simp only [step, fetch_of_no_offer hturns hpending]

theorem step_of_decode_ok {i : Instr} (hturns : s.agents.turns = a :: ts)
    (hpending : s.agents.pending a = o :: os) (hdecode : decode o = .ok i) :
    step s = exec i (offered s a os ts i) := by
  simp only [step, fetch_of_decode_ok hturns hpending hdecode]

theorem step_of_decode_error {r : Reject} (hturns : s.agents.turns = a :: ts)
    (hpending : s.agents.pending a = o :: os) (hdecode : decode o = .error r) :
    step s = .refused (refusalOf r) := by
  simp only [step, fetch_of_decode_error hturns hpending hdecode]

end

/-- Settles O6: the step is `exec` of the decoded operation in the state `offered` describes, and the field lemmas
say what the turns and the agent's list are in its two cases. -/
theorem stepRunsDecodedOperation : Obligations.StepRunsDecodedOperation := by
  intro s a ts o os i hturns hpending hdecode _
  refine ⟨step_of_decode_ok hturns hpending hdecode, ?_, ?_, ?_, ?_⟩
  · exact State.withPending_pending _ a os
  · rw [State.withPending_turns, State.withTurns_turns]
  · rw [State.withTurns_pending, hpending]
  · exact State.withTurns_turns s ts

/-- Settles O7: both empty cases fetch nothing, and the step rests. -/
theorem stepWithoutOfferRests : Obligations.StepWithoutOfferRests := fun _ =>
  ⟨step_of_no_turn, fun _ _ => step_of_no_offer⟩

end Sys2Proof.Machine
end

section
/-! The laws of the buffers, of LENGTH's halves and of the checksum fold that the invariants of R37, R38 and R167
rest on. -/

namespace Sys2Proof.Machine

/-- Writing the next index extends the bytes read by the operand. -/
theorem memReadTo_write_next (d : Nat) (b : Buffer) (m : Memory) (n : Nat) (v : Byte) :
    memReadTo d b (Memory.write m n v) (n + 1) = memReadTo d b m n ++ [v] := by
  rw [memReadTo_succ, memReadTo_write_beyond d b m v le_rfl, memRead_write_same]

@[simp] theorem Memory.writtenTo_zero (m : Memory) : Memory.writtenTo m 0 := fun i hi => absurd hi i.not_lt_zero

theorem Memory.writtenTo_write_next {m : Memory} {n : Nat} (v : Byte) (h : Memory.writtenTo m n) :
    Memory.writtenTo (Memory.write m n v) (n + 1) := by
  intro i hi
  by_cases hin : i = n
  · subst hin; simp
  · rw [Memory.read?_write_other m v hin]
    exact h i (by omega)

@[simp] theorem ckFold_nil (p : CkParams) (a : Byte) : ckFold p a [] = a := rfl

@[simp] theorem ckFold_cons (p : CkParams) (a b : Byte) (bs : List Byte) :
    ckFold p a (b :: bs) = ckFold p (ckStep p a b) bs := rfl

@[simp] theorem ckFold_append (p : CkParams) (a : Byte) (bs cs : List Byte) :
    ckFold p a (bs ++ cs) = ckFold p (ckFold p a bs) cs := List.foldl_append

theorem hiByte_lenFromHi (b : Byte) : hiByte (lenFromHi b) = b := by
  ext i hi
  simp [hiByte, lenFromHi, zext16, BitVec.getLsbD_eq_getElem hi, show 8 + i < 16 by omega]

theorem loByte_lenFromHi (b : Byte) : loByte (lenFromHi b) = 0x00#8 := by
  ext i hi
  simp [loByte, lenFromHi, zext16, hi]

theorem hiByte_lenWithLo (n : U16) (b : Byte) : hiByte (lenWithLo n b) = hiByte n := by
  ext i hi
  simp [hiByte, lenWithLo, zext16]

theorem loByte_lenWithLo (n : U16) (b : Byte) : loByte (lenWithLo n b) = loByte n ||| b := by
  ext i hi
  simp [loByte, lenWithLo, zext16, BitVec.getLsbD_eq_getElem hi, show i < 16 by omega]

/-- A 16-bit value with a successor within 16 bits. -/
theorem toNat_add_one {a : U16} (h : a ≠ 0xFFFF#16) : (a + 1#16).toNat = a.toNat + 1 := by
  bv_omega

theorem toNat_lt_capacity {a : U16} (h : a ≠ 0xFFFF#16) : a.toNat < Config.capacity := by
  simpa [indexExists] using (indexExists_iff a).2 h

end Sys2Proof.Machine
end

section
/-! The receive path: RX_BYTE keeps the invariants of R37 and R167 and the canonical form of RXB. -/

namespace Sys2Proof.Machine

section
variable {p : CkParams} {d : Nat} {b : Byte} {r q : RxPath} {o : Out}

theorem feed_awaitStart (hs : r.state = .awaitStart) :
    feed p d b r = .done (rxAwaitStart p b r) Out.quiet := by
  simp [feed, hs]

theorem feed_readPayload (hs : r.state = .readPayload)
    (hidx : r.index ≠ 0xFFFF#16) : feed p d b r = .done (rxReadPayload p b r) Out.quiet := by
  simp [feed, hs, (indexExists_iff _).2 hidx]

theorem feed_readChecksum (hs : r.state = .readChecksum) :
    feed p d b r = .done { r with state := .awaitStart } (emitRx (rxVerdict p d b r)) := by
  simp [feed, hs]

/-- The invariants of R37 say nothing of the states before LENGTH is complete. -/
theorem RxInv.of_before_readCmd
    (h : r.state = .awaitStart ∨ r.state = .readLenHi ∨ r.state = .readLenLo) : RxInv r := by
  rcases h with h | h | h <;> constructor <;> simp [h]

/-- The invariants of R167 say nothing of AwaitStart. -/
theorem RxChecksum.of_awaitStart (h : r.state = .awaitStart) : RxChecksum p d r := by
  constructor <;> simp [h]

/-- From COMMAND on, R167 is one equation. -/
theorem RxChecksum.of_after_readCmd (hs : r.state = .readPayload ∨ r.state = .readChecksum)
    (hacc : r.acc = ckFold p p.init (header r.len r.cmd ++ memReadTo d .rxb r.buf r.received)) :
    RxChecksum p d r := by
  refine ⟨?_, ?_, ?_, fun _ => hacc⟩ <;> rcases hs with hs | hs <;> simp [hs]

theorem rxReadCmd_state : (rxReadCmd p b r).state = .readPayload ∨ (rxReadCmd p b r).state = .readChecksum := by
  simp only [rxReadCmd]; split <;> simp

theorem rxReadPayload_state :
    (rxReadPayload p b r).state = .readPayload ∨ (rxReadPayload p b r).state = .readChecksum := by
  simp only [rxReadPayload]; split <;> simp

theorem RxPath.index_toNat (h : r.rem.toNat ≤ r.len.toNat) : r.index.toNat = r.received :=
  BitVec.toNat_sub_of_le h

/-- While nothing of the payload has come, nothing of it is received. -/
theorem RxPath.received_eq_zero (h : r.rem = r.len) : r.received = 0 := by
  simp [RxPath.received, h]

theorem rxReadPayload_received (hpos : 1 ≤ r.rem.toNat) (hle : r.rem.toNat ≤ r.len.toNat) :
    (rxReadPayload p b r).received = r.received + 1 := by
  simp only [rxReadPayload, RxPath.received]
  bv_omega

theorem rxReadPayload_buf (hle : r.rem.toNat ≤ r.len.toNat) :
    (rxReadPayload p b r).buf = Memory.write r.buf r.received b := by
  rw [← RxPath.index_toNat hle, rxReadPayload]

theorem rxAwaitStart_keeps_rxInv (hs : r.state = .awaitStart) : RxInv (rxAwaitStart p b r) := by
  refine .of_before_readCmd ?_
  unfold rxAwaitStart
  split <;> simp [hs]

theorem rxReadCmd_keeps_rxInv (hs : r.state = .readCmd) (h : RxInv r) : RxInv (rxReadCmd p b r) := by
  have hrem : r.rem = r.len := h.readCmd hs
  by_cases hlen : r.len = 0x0000#16
  · constructor <;> simp [rxReadCmd, RxPath.received, hrem, hlen]
  · have : r.len.toNat ≠ 0 := fun h0 => hlen (BitVec.eq_of_toNat_eq h0)
    constructor <;> simp [rxReadCmd, RxPath.received, hrem, hlen]
    omega

theorem rxReadPayload_keeps_rxInv (hs : r.state = .readPayload) (h : RxInv r) :
    RxInv (rxReadPayload p b r) := by
  obtain ⟨hpos, hle⟩ := h.readPayload hs
  have hwritten : Memory.writtenTo (rxReadPayload p b r).buf (rxReadPayload p b r).received := by
    rw [rxReadPayload_received hpos hle, rxReadPayload_buf hle]
    exact Memory.writtenTo_write_next b (h.written (.inl hs))
  by_cases hlast : r.rem - 1#16 = 0x0000#16
  · exact ⟨by simp [rxReadPayload, hlast], by simp [rxReadPayload, hlast], fun _ => hlast, fun _ => hwritten⟩
  · refine ⟨by simp [rxReadPayload, hlast], fun _ => ?_, by simp [rxReadPayload, hlast], fun _ => hwritten⟩
    simp only [rxReadPayload]
    bv_omega

theorem feed_keeps_rxInv (h : RxInv r) (hf : feed p d b r = .done q o) : RxInv q := by
  obtain ⟨hs, -, rfl⟩ | ⟨-, -, rfl⟩ | ⟨-, -, rfl⟩ | ⟨hs, -, rfl⟩ | ⟨hs, -, -, rfl⟩ | ⟨-, -, rfl⟩ := feed_done hf
  · exact rxAwaitStart_keeps_rxInv hs
  · exact .of_before_readCmd (by simp [rxReadLenHi])
  · constructor <;> simp [rxReadLenLo]
  · exact rxReadCmd_keeps_rxInv hs h
  · exact rxReadPayload_keeps_rxInv hs h
  · exact .of_before_readCmd (by simp)

theorem rxAwaitStart_keeps_rxChecksum (hs : r.state = .awaitStart) : RxChecksum p d (rxAwaitStart p b r) := by
  unfold rxAwaitStart
  split
  · constructor <;> simp
  · exact .of_awaitStart hs

/-- The new rx_len has `b` as its upper half and 0 as its lower (R132). -/
theorem rxReadLenHi_keeps_rxChecksum (hs : r.state = .readLenHi) (h : RxChecksum p d r) :
    RxChecksum p d (rxReadLenHi p b r) := by
  constructor <;> simp [rxReadLenHi, hiByte_lenFromHi, loByte_lenFromHi, h.readLenHi hs]

/-- The completed rx_len keeps its upper half, and its lower half is `b`, since it was 0 (R133). -/
theorem rxReadLenLo_keeps_rxChecksum (hs : r.state = .readLenLo) (h : RxChecksum p d r) :
    RxChecksum p d (rxReadLenLo p b r) := by
  obtain ⟨hlo, hacc⟩ := h.readLenLo hs
  constructor <;> simp [rxReadLenLo, hiByte_lenWithLo, loByte_lenWithLo, hlo, hacc]

/-- After COMMAND the header is covered and no payload byte is (R134). -/
theorem rxReadCmd_keeps_rxChecksum (hs : r.state = .readCmd) (hinv : RxInv r) (h : RxChecksum p d r) :
    RxChecksum p d (rxReadCmd p b r) := by
  have hreceived : (rxReadCmd p b r).received = 0 := RxPath.received_eq_zero (hinv.readCmd hs)
  refine .of_after_readCmd rxReadCmd_state ?_
  rw [hreceived]
  simp [rxReadCmd, header, h.readCmd hs]

/-- The payload byte is stored where the received bytes end, so the covered bytes grow by it (R135). -/
theorem rxReadPayload_keeps_rxChecksum (hs : r.state = .readPayload) (hinv : RxInv r) (h : RxChecksum p d r) :
    RxChecksum p d (rxReadPayload p b r) := by
  obtain ⟨hpos, hle⟩ := hinv.readPayload hs
  refine .of_after_readCmd rxReadPayload_state ?_
  rw [rxReadPayload_received hpos hle, rxReadPayload_buf hle, memReadTo_write_next]
  simp [rxReadPayload, h.payload (.inl hs)]

theorem feed_keeps_rxChecksum (hinv : RxInv r) (h : RxChecksum p d r) (hf : feed p d b r = .done q o) :
    RxChecksum p d q := by
  obtain ⟨hs, -, rfl⟩ | ⟨hs, -, rfl⟩ | ⟨hs, -, rfl⟩ | ⟨hs, -, rfl⟩ | ⟨hs, -, -, rfl⟩ | ⟨-, -, rfl⟩ := feed_done hf
  · exact rxAwaitStart_keeps_rxChecksum hs
  · exact rxReadLenHi_keeps_rxChecksum hs h
  · exact rxReadLenLo_keeps_rxChecksum hs h
  · exact rxReadCmd_keeps_rxChecksum hs hinv h
  · exact rxReadPayload_keeps_rxChecksum hs hinv h
  · exact .of_awaitStart rfl

@[simp] theorem rxAwaitStart_buf : (rxAwaitStart p b r).buf = r.buf := by
  unfold rxAwaitStart; split <;> rfl

theorem feed_keeps_wf (h : Memory.wf r.buf = true) (hf : feed p d b r = .done q o) : Memory.wf q.buf = true := by
  obtain ⟨-, -, rfl⟩ | ⟨-, -, rfl⟩ | ⟨-, -, rfl⟩ | ⟨-, -, rfl⟩ | ⟨-, hidx, -, rfl⟩ | ⟨-, -, rfl⟩ := feed_done hf
  · rwa [rxAwaitStart_buf]
  · exact h
  · exact h
  · exact h
  · exact Memory.wf_write b (toNat_lt_capacity hidx) h
  · exact h

end

end Sys2Proof.Machine
end

section
/-! The transmit path: its operations keep the invariants of R38 and R167 and the canonical form of TXB. -/

namespace Sys2Proof.Machine

section
variable {p : CkParams} {d : Nat} {b c : Byte} {t q : TxPath} {o : Out}

/-- What TX_EMIT does to the transmit path and outputs, by framer phase (R104). -/
theorem emit_done_path (h : emit p d t = .done q o) :
    (t.phase = .start ∧ q = { t with acc := p.init, phase := .lenHi } ∧ o = emitTx Config.start) ∨
    (t.phase = .lenHi ∧ q = { t with acc := ckStep p t.acc (hiByte t.len), phase := .lenLo } ∧
      o = emitTx (hiByte t.len)) ∨
    (t.phase = .lenLo ∧ q = { t with acc := ckStep p t.acc (loByte t.len), phase := .cmd } ∧
      o = emitTx (loByte t.len)) ∨
    (t.phase = .cmd ∧ o = emitTx t.cmd ∧
      q = { t with acc := ckStep p t.acc t.cmd, phase := if t.len = 0x0000#16 then .ck else .payload }) ∨
    (t.phase = .payload ∧ t.idx ≠ 0xFFFF#16 ∧ o = emitTx (memRead d .txb t.buf t.idx.toNat) ∧
      q = { t with acc := ckStep p t.acc (memRead d .txb t.buf t.idx.toNat), idx := t.idx + 1#16,
                   phase := if t.idx + 1#16 = t.len then .ck else .payload }) ∨
    (t.phase = .ck ∧ q = { t with phase := .idle, len := 0x0000#16, idx := 0x0000#16 } ∧
      o = emitTx (ckFinal p t.acc)) := by
  obtain ⟨hp, h⟩ | ⟨hp, h⟩ | ⟨hp, h⟩ | ⟨hp, h⟩ | ⟨hp, hidx, h⟩ | ⟨hp, h⟩ := emit_done h
  case inr.inr.inr.inr.inl =>
    rw [emitPayload, if_pos ((indexExists_iff _).2 hidx)] at h
    cases h
    simp [hp, hidx]
  all_goals cases h; simp [hp]

theorem emit_ck (hp : t.phase = .ck) :
    emit p d t = .done { t with phase := .idle, len := 0x0000#16, idx := 0x0000#16 } (emitTx (ckFinal p t.acc)) := by
  simp [emit, hp, emitCk]

/-- tx_ovf is set in Idle only, so never while a frame is in progress. -/
theorem TxInv.ovf_of_busy (h : TxInv t) (hp : t.phase ≠ .idle) : t.ovf = false :=
  Bool.eq_false_iff.2 fun hovf => hp (h.overflow hovf).2

/-- In Idle the invariants of R38 are those of tx_ovf and of the pushed bytes. -/
theorem TxInv.of_idle (hp : t.phase = .idle) (hovf : t.ovf = true → t.len = 0xFFFF#16)
    (hwritten : Memory.writtenTo t.buf t.len.toNat) : TxInv t :=
  ⟨fun h => ⟨hovf h, hp⟩, by simp [hp], by simp [hp], by simp [hp], hwritten⟩

/-- Until the first payload byte is emitted they are that tx_idx is 0 and the pushed bytes are written. -/
theorem TxInv.of_beforePayload (hp : t.phase = .start ∨ t.phase = .lenHi ∨ t.phase = .lenLo ∨ t.phase = .cmd)
    (hovf : t.ovf = false) (hidx : t.idx = 0x0000#16) (hwritten : Memory.writtenTo t.buf t.len.toNat) :
    TxInv t := by
  refine ⟨by simp [hovf], ?_, ?_, fun _ => hidx, hwritten⟩ <;> rcases hp with hp | hp | hp | hp <;> simp [hp]

/-- Where Payload goes on exactly until tx_idx has reached tx_len, tx_idx stays within the payload. -/
theorem TxInv.of_payload_or_ck (hp : t.phase = if t.idx = t.len then .ck else .payload) (hovf : t.ovf = false)
    (hle : t.idx.toNat ≤ t.len.toNat) (hwritten : Memory.writtenTo t.buf t.len.toNat) : TxInv t := by
  by_cases hlast : t.idx = t.len
  · rw [if_pos hlast] at hp
    exact ⟨by simp [hovf], by simp [hp], fun _ => hlast, by simp [hp], hwritten⟩
  · rw [if_neg hlast] at hp
    have hlt : t.idx.toNat < t.len.toNat :=
      lt_of_le_of_ne hle fun heq => hlast (BitVec.eq_of_toNat_eq heq)
    exact ⟨by simp [hovf], fun _ => hlt, by simp [hp], by simp [hp], hwritten⟩

/-- The invariants of R167 say nothing of Idle and Start. -/
theorem TxChecksum.of_idle_or_start (hp : t.phase = .idle ∨ t.phase = .start) : TxChecksum p d t := by
  rcases hp with hp | hp <;> constructor <;> simp [hp]

/-- From Payload on, R167 is one equation. -/
theorem TxChecksum.of_payload_or_ck (hp : t.phase = .payload ∨ t.phase = .ck)
    (hacc : t.acc = ckFold p p.init (header t.len t.cmd ++ memReadTo d .txb t.buf t.idx.toNat)) :
    TxChecksum p d t := by
  refine ⟨?_, ?_, ?_, fun _ => hacc⟩ <;> rcases hp with hp | hp <;> simp [hp]

theorem pushByte_keeps_txInv (hp : t.phase = .idle) (h : TxInv t) (hf : pushByte b t = .done q o) : TxInv q := by
  obtain ⟨-, ⟨hfull, rfl⟩ | ⟨hroom, rfl⟩⟩ := pushByte_done hf
  · exact .of_idle hp (fun _ => hfull) h.written
  · refine .of_idle hp (fun hovf => absurd (h.overflow hovf).1 hroom) ?_
    simpa [toNat_add_one hroom] using Memory.writtenTo_write_next b h.written

theorem sendFrame_keeps_txInv (hp : t.phase = .idle) (h : TxInv t) (hf : sendFrame c t = .done q o) :
    TxInv q := by
  obtain ⟨-, -, rfl⟩ | ⟨hovf, -, rfl⟩ := sendFrame_done hf
  · exact .of_idle hp (by simp) (by simp)
  · exact .of_beforePayload (by simp) hovf rfl h.written

theorem emit_keeps_txInv (h : TxInv t) (hf : emit p d t = .done q o) : TxInv q := by
  obtain ⟨hp, rfl, -⟩ | ⟨hp, rfl, -⟩ | ⟨hp, rfl, -⟩ | ⟨hp, -, rfl⟩ | ⟨hp, hidx, -, rfl⟩ | ⟨hp, rfl, -⟩ :=
    emit_done_path hf
  all_goals have hovf : t.ovf = false := h.ovf_of_busy (by simp [hp])
  · exact .of_beforePayload (by simp) hovf (h.beforePayload (by simp [hp])) h.written
  · exact .of_beforePayload (by simp) hovf (h.beforePayload (by simp [hp])) h.written
  · exact .of_beforePayload (by simp) hovf (h.beforePayload (by simp [hp])) h.written
  · have hzero : t.idx = 0x0000#16 := h.beforePayload (by simp [hp])
    exact .of_payload_or_ck (by simp [hzero, eq_comm (a := t.len)]) hovf (by simp [hzero]) h.written
  · have hlt : t.idx.toNat < t.len.toNat := h.payload hp
    exact .of_payload_or_ck rfl hovf (by simpa [toNat_add_one hidx] using hlt) h.written
  · exact .of_idle rfl (by simp [hovf]) (by simp)

theorem emit_keeps_txChecksum (hinv : TxInv t) (h : TxChecksum p d t) (hf : emit p d t = .done q o) :
    TxChecksum p d q := by
  obtain ⟨hp, rfl, -⟩ | ⟨hp, rfl, -⟩ | ⟨hp, rfl, -⟩ | ⟨hp, -, rfl⟩ | ⟨hp, hidx, -, rfl⟩ | ⟨hp, rfl, -⟩ :=
    emit_done_path hf
  · constructor <;> simp
  · constructor <;> simp [h.lenHi hp]
  · constructor <;> simp [h.lenLo hp]
  · have hzero : t.idx = 0x0000#16 := hinv.beforePayload (by simp [hp])
    refine .of_payload_or_ck (by dsimp only; split <;> simp) ?_
    simp [hzero, header, h.cmd hp]
  · refine .of_payload_or_ck (by dsimp only; split <;> simp) ?_
    simp [toNat_add_one hidx, memReadTo_succ, h.payload (.inl hp)]
  · exact .of_idle_or_start (.inl rfl)

theorem pushByte_keeps_wf (h : Memory.wf t.buf = true) (hf : pushByte b t = .done q o) :
    Memory.wf q.buf = true := by
  obtain ⟨-, ⟨-, rfl⟩ | ⟨hroom, rfl⟩⟩ := pushByte_done hf
  · exact h
  · exact Memory.wf_write b (toNat_lt_capacity hroom) h

theorem sendFrame_buf (hf : sendFrame c t = .done q o) : q.buf = t.buf := by
  obtain ⟨-, -, rfl⟩ | ⟨-, -, rfl⟩ := sendFrame_done hf <;> rfl

theorem emit_buf (hf : emit p d t = .done q o) : q.buf = t.buf := by
  obtain ⟨-, rfl, -⟩ | ⟨-, rfl, -⟩ | ⟨-, rfl, -⟩ | ⟨-, -, rfl⟩ | ⟨-, -, -, rfl⟩ | ⟨-, rfl, -⟩ :=
    emit_done_path hf <;> rfl

theorem pushByte_phase (hf : pushByte b t = .done q o) : q.phase = t.phase := by
  obtain ⟨-, ⟨-, rfl⟩ | ⟨-, rfl⟩⟩ := pushByte_done hf <;> rfl

/-- TX_SEND leaves the framer in Idle or in Start. -/
theorem sendFrame_phase (hp : t.phase = .idle) (hf : sendFrame c t = .done q o) :
    q.phase = .idle ∨ q.phase = .start := by
  obtain ⟨-, -, rfl⟩ | ⟨-, -, rfl⟩ := sendFrame_done hf
  · exact .inl hp
  · exact .inr rfl

end

end Sys2Proof.Machine
end

section
/-! Every step keeps the invariant of the block. -/

namespace Sys2Proof.Machine

section
variable {s t : State}

/-- The invariant speaks of the two paths and of the draw only. -/
theorem State.Inv.congr (h : s.Inv) (hrx : t.rx = s.rx) (htx : t.tx = s.tx) (hdraws : t.draws = s.draws) :
    t.Inv := by
  constructor
  · rw [hrx]; exact h.rx
  · rw [hrx, hdraws]; exact h.rxChecksum
  · rw [htx]; exact h.tx
  · rw [htx, hdraws]; exact h.txChecksum
  · rw [hrx]; exact h.rxb
  · rw [htx]; exact h.txb

theorem State.Inv.withRx {r : RxPath} (h : s.Inv) (o : Out) (hinv : RxInv r)
    (hck : RxChecksum Config.ck s.draws r) (hwf : Memory.wf r.buf = true) : (s.withRx r o).Inv :=
  ⟨hinv, hck, h.tx, h.txChecksum, hwf, h.txb⟩

theorem State.Inv.withTx {p : TxPath} (h : s.Inv) (o : Out) (hinv : TxInv p)
    (hck : TxChecksum Config.ck s.draws p) (hwf : Memory.wf p.buf = true) : (s.withTx p o).Inv :=
  ⟨h.rx, h.rxChecksum, hinv, hck, h.rxb, hwf⟩

theorem RxInv.reset : RxInv RxPath.reset := .of_before_readCmd (.inl rfl)

theorem TxInv.reset : TxInv TxPath.reset := .of_idle rfl nofun (Memory.writtenTo_zero _)

/-- Whatever the draw is: at reset nothing is received, pushed or covered. -/
theorem State.Inv.of_reset_paths (hrx : s.rx = RxPath.reset) (htx : s.tx = TxPath.reset) : s.Inv := by
  constructor
  · rw [hrx]; exact .reset
  · rw [hrx]; exact .of_awaitStart rfl
  · rw [htx]; exact .reset
  · rw [htx]; exact .of_idle_or_start (.inl rfl)
  · rw [hrx]; rfl
  · rw [htx]; rfl

/-- Settles O38: both paths of the reset state are at their reset values. -/
theorem invariantAtReset : Obligations.InvariantAtReset := State.Inv.of_reset_paths rfl rfl

/-- Each operation keeps the invariants of the path it writes. -/
theorem exec_keeps_inv {i : Instr} (hinv : s.Inv) (h : exec i s = .next t) : t.Inv := by
  obtain ⟨b, r, o, -, hfeed, rfl⟩ | ⟨-, rfl⟩ | ⟨b, p, o, -, hidle, hpush, rfl⟩ |
    ⟨c, p, o, -, hidle, hsend, rfl⟩ | ⟨-, hidle, rfl⟩ | ⟨p, o, -, -, hemit, rfl⟩ | ⟨-, rfl⟩ | ⟨-, rfl⟩ :=
    exec_next_cases h
  · exact hinv.withRx o (feed_keeps_rxInv hinv.rx hfeed) (feed_keeps_rxChecksum hinv.rx hinv.rxChecksum hfeed)
      (feed_keeps_wf hinv.rxb hfeed)
  · exact hinv.withRx _ (.of_before_readCmd (.inl rfl)) (.of_awaitStart rfl) hinv.rxb
  · exact hinv.withTx o (pushByte_keeps_txInv hidle hinv.tx hpush)
      (.of_idle_or_start (.inl ((pushByte_phase hpush).trans hidle))) (pushByte_keeps_wf hinv.txb hpush)
  · exact hinv.withTx o (sendFrame_keeps_txInv hidle hinv.tx hsend)
      (.of_idle_or_start (sendFrame_phase hidle hsend)) (by rw [sendFrame_buf hsend]; exact hinv.txb)
  · exact hinv.withTx _ (.of_idle hidle nofun (Memory.writtenTo_zero _)) (.of_idle_or_start (.inl hidle)) hinv.txb
  · exact hinv.withTx o (emit_keeps_txInv hinv.tx hemit) (emit_keeps_txChecksum hinv.tx hinv.txChecksum hemit)
      (by rw [emit_buf hemit]; exact hinv.txb)
  · exact .of_reset_paths rfl rfl
  · exact hinv.congr rfl rfl rfl

end

/-- Settles O39: fetching touches neither path, and each operation keeps the invariants of the path it writes. -/
theorem stepKeepsInvariant : Obligations.StepKeepsInvariant := by
  intro s t hinv hstep
  obtain ⟨u, hfetch, rfl⟩ | ⟨i, u, hfetch, hexec⟩ := step_next_cases hstep
  · obtain ⟨hrx, htx, hdraws⟩ := fetch_nothing hfetch
    exact hinv.congr hrx htx hdraws
  · obtain ⟨hrx, htx, hdraws⟩ := fetch_operation hfetch
    exact exec_keeps_inv (hinv.congr hrx htx hdraws) hexec

end Sys2Proof.Machine
end

section
/-! What an operation outputs (R36, R27) and what it leaves unchanged (R20), and the status outputs of R35. -/

namespace Sys2Proof.Machine

section
variable {i : Instr} {s t : State}

theorem exec_reset (s : State) : exec .reset s = .next s.withReset := rfl

theorem exec_rxByte (b : Byte) (s : State) :
    exec (.rxByte b) s = commitRx s (feed Config.ck s.draws b s.rx) := rfl

theorem exec_txEmit (s : State) : exec .txEmit s = commitTx s (emit Config.ck s.draws s.tx) := rfl

theorem exec_txClear (s : State) : exec .txClear s = commitTx s (whenIdle s.tx clearPayload) := rfl

/-- RX_BYTE outputs at most an event. -/
theorem feed_out {p : CkParams} {d : Nat} {b : Byte} {r q : RxPath} {o : Out} (h : feed p d b r = .done q o) :
    ∃ e, o = emitRx e := by
  obtain ⟨-, ho, -⟩ | ⟨-, ho, -⟩ | ⟨-, ho, -⟩ | ⟨-, ho, -⟩ | ⟨-, -, ho, -⟩ | ⟨-, ho, -⟩ := feed_done h
  case inr.inr.inr.inr.inr => exact ⟨_, ho⟩
  all_goals exact ⟨.none, ho⟩

/-- What an operation outputs, and which one it then is. -/
theorem exec_out_cases (h : exec i s = .next t) :
    (t.out = Out.quiet ∧ ¬ (i = .txEmit ∧ s.tx.phase ≠ .idle)) ∨
    (∃ b e, i = .rxByte b ∧ t.out = emitRx e) ∨
    (∃ p o, i = .txEmit ∧ s.tx.phase ≠ .idle ∧ emit Config.ck s.draws s.tx = .done p o ∧ t.out = o) ∨
    (∃ c, commandOf i = some c ∧ t.out = raisePayloadTooLarge) := by
  obtain ⟨b, r, o, rfl, hfeed, rfl⟩ | ⟨rfl, rfl⟩ | ⟨b, p, o, rfl, -, hpush, rfl⟩ |
    ⟨c, p, o, hc, hidle, hsend, rfl⟩ | ⟨rfl, -, rfl⟩ | ⟨p, o, rfl, hbusy, hemit, rfl⟩ | ⟨rfl, rfl⟩ |
    ⟨hheld, rfl⟩ := exec_next_cases h
  · obtain ⟨e, rfl⟩ := feed_out hfeed
    exact .inr (.inl ⟨b, e, rfl, rfl⟩)
  · exact .inl ⟨rfl, by simp⟩
  · exact .inl ⟨(pushByte_done hpush).1, by simp⟩
  · obtain ⟨-, rfl, -⟩ | ⟨-, rfl, -⟩ := sendFrame_done hsend
    · exact .inr (.inr (.inr ⟨c, hc, rfl⟩))
    · exact .inl ⟨rfl, by simp [hidle]⟩
  · exact .inl ⟨rfl, by simp⟩
  · exact .inr (.inr (.inl ⟨p, o, rfl, hbusy, hemit, rfl⟩))
  · exact .inl ⟨rfl, by simp⟩
  · refine .inl ⟨rfl, ?_⟩
    rintro ⟨rfl, hbusy⟩
    simp [enabled, txBusy, TxPath.busy, hbusy] at hheld

/-- A performed TX_EMIT outputs a byte and nothing else. -/
theorem emit_out {p : CkParams} {d : Nat} {x q : TxPath} {o : Out} (h : emit p d x = .done q o) :
    ∃ b, o = emitTx b := by
  obtain ⟨-, -, ho⟩ | ⟨-, -, ho⟩ | ⟨-, -, ho⟩ | ⟨-, ho, -⟩ | ⟨-, -, ho, -⟩ | ⟨-, -, ho⟩ := emit_done_path h <;>
    exact ⟨_, ho⟩

/-- Settles O48: each of the four kinds of output comes with the operation it belongs to. -/
theorem oneOutputPerOperation : Obligations.OneOutputPerOperation := by
  intro i s t h
  obtain ⟨ho, -⟩ | ⟨b, e, rfl, ho⟩ | ⟨p, o, rfl, -, hemit, ho⟩ | ⟨c, hc, ho⟩ := exec_out_cases h
  · simp [ho]
  · simp [ho]
  · obtain ⟨b, rfl⟩ := emit_out hemit
    simp [ho]
  · simp [ho, hc]

/-- Settles O33: only a performed TX_EMIT outputs a byte, and `emit_done_path` says which in each phase. -/
theorem emittedByteIsNamedByPhase : Obligations.EmittedByteIsNamedByPhase := by
  intro i s t h
  obtain ⟨ho, hnot⟩ | ⟨b, e, rfl, ho⟩ | ⟨p, o, rfl, hbusy, hemit, ho⟩ | ⟨c, hc, ho⟩ := exec_out_cases h
  · refine ⟨by simpa [ho] using hnot, ?_⟩
    rintro rfl
    have hidle : s.tx.phase = .idle := by simpa using hnot
    simp [ho, hidle]
  · simp [ho]
  · obtain ⟨hp, -, rfl⟩ | ⟨hp, -, rfl⟩ | ⟨hp, -, rfl⟩ | ⟨hp, rfl, -⟩ | ⟨hp, -, rfl, -⟩ | ⟨hp, -, rfl⟩ :=
      emit_done_path hemit <;> simp [ho, hp, hiByte, loByte]
  · have hi : i ≠ .txEmit := by rintro rfl; simp [commandOf] at hc
    simp [ho, hi]

/-- Every operation but RESET is of one of the two paths (R20). -/
theorem receivePath_or_transmitPath_or_reset (i : Instr) :
    receivePath i = true ∨ transmitPath i = true ∨ i = .reset := by
  cases i <;> simp [receivePath, transmitPath]

theorem transmitPath_of_commandOf {c : Byte} (h : commandOf i = some c) : transmitPath i = true := by
  cases i <;> simp [commandOf, transmitPath] at h ⊢

/-- No operation is of both paths. -/
theorem receivePath_of_transmitPath (h : transmitPath i = true) : receivePath i = false := by
  cases i <;> simp [receivePath, transmitPath] at h ⊢

theorem exec_agents (h : exec i s = .next t) : t.agents = s.agents := by
  obtain ⟨b, r, o, -, -, rfl⟩ | ⟨-, rfl⟩ | ⟨b, p, o, -, -, -, rfl⟩ | ⟨c, p, o, -, -, -, rfl⟩ | ⟨-, -, rfl⟩ |
    ⟨p, o, -, -, -, rfl⟩ | ⟨-, rfl⟩ | ⟨-, rfl⟩ := exec_next_cases h <;> rfl

/-- An operation of the receive path is performed there or held. -/
theorem exec_of_receivePath (hi : receivePath i = true) (h : exec i s = .next t) :
    (∃ r o, t = s.withRx r o) ∨ t = s.hold := by
  obtain ⟨b, r, o, -, -, rfl⟩ | ⟨-, rfl⟩ | ⟨b, p, o, rfl, -, -, -⟩ | ⟨c, p, o, hc, -, -, -⟩ | ⟨rfl, -, -⟩ |
    ⟨p, o, rfl, -, -, -⟩ | ⟨rfl, -⟩ | ⟨-, rfl⟩ := exec_next_cases h
  · exact .inl ⟨r, o, rfl⟩
  · exact .inl ⟨_, _, rfl⟩
  · cases hi
  · simp [receivePath_of_transmitPath (transmitPath_of_commandOf hc)] at hi
  · cases hi
  · cases hi
  · cases hi
  · exact .inr rfl

/-- An operation of the transmit path is performed there or held. -/
theorem exec_of_transmitPath (hi : transmitPath i = true) (h : exec i s = .next t) :
    (∃ p o, t = s.withTx p o) ∨ t = s.hold := by
  obtain ⟨b, r, o, rfl, -, -⟩ | ⟨rfl, -⟩ | ⟨b, p, o, -, -, -, rfl⟩ | ⟨c, p, o, -, -, -, rfl⟩ | ⟨-, -, rfl⟩ |
    ⟨p, o, -, -, -, rfl⟩ | ⟨rfl, -⟩ | ⟨-, rfl⟩ := exec_next_cases h
  · cases hi
  · cases hi
  · exact .inl ⟨p, o, rfl⟩
  · exact .inl ⟨p, o, rfl⟩
  · exact .inl ⟨_, _, rfl⟩
  · exact .inl ⟨p, o, rfl⟩
  · cases hi
  · exact .inr rfl

/-- Settles O42: a performed operation writes its own path (`State.withRx`, `State.withTx`), a held one neither. -/
theorem onlyItsOwnPathIsWritten : Obligations.OnlyItsOwnPathIsWritten := by
  intro i s t h
  refine ⟨exec_agents h, fun hi => ?_, fun hi => ?_, fun hrx htx => ?_⟩
  · obtain ⟨r, o, rfl⟩ | rfl := exec_of_receivePath hi h <;> exact ⟨rfl, rfl⟩
  · obtain ⟨p, o, rfl⟩ | rfl := exec_of_transmitPath hi h <;> exact ⟨rfl, rfl⟩
  · simpa [hrx, htx] using receivePath_or_transmitPath_or_reset i

theorem txBusy_iff (s : State) : txBusy s = true ↔ s.tx.phase ≠ .idle := by
  simp [txBusy, TxPath.busy]

/-- Settles O37: the codes are read off state by state and phase by phase. -/
theorem statusOutputs : Obligations.StatusOutputs := by
  refine ⟨by decide, fun s => ⟨?_, ?_, txBusy_iff s, rfl, rfl⟩⟩
  · cases hs : s.rx.state <;> simp [rxStateCode, hs, RxState.code]
  · cases hp : s.tx.phase <;> simp [txPhaseCode, hp, TxPhase.code]

end

end Sys2Proof.Machine
end

section
/-! The bytes written since the last start marker and the last clear, followed along a run (R37, R38). -/

namespace Sys2Proof.Machine

section
variable {i : Instr} {s t : State}

theorem feed_received {p : CkParams} {d : Nat} {b : Byte} {r q : RxPath} {o : Out} (hinv : RxInv r)
    (h : feed p d b r = .done q o) (hq : q.state = .readPayload ∨ q.state = .readChecksum) :
    q.received = 0 ∨ (r.state = .readPayload ∧ r.index.toNat = r.received ∧ q.received = r.received + 1) := by
  obtain ⟨hs, -, rfl⟩ | ⟨-, -, rfl⟩ | ⟨-, -, rfl⟩ | ⟨hs, -, rfl⟩ | ⟨hs, -, -, rfl⟩ | ⟨-, -, rfl⟩ := feed_done h
  · unfold rxAwaitStart at hq
    split at hq <;> simp [hs] at hq
  · simp [rxReadLenHi] at hq
  · simp [rxReadLenLo] at hq
  · exact .inl (RxPath.received_eq_zero (hinv.readCmd hs))
  · obtain ⟨hpos, hle⟩ := hinv.readPayload hs
    exact .inr ⟨hs, RxPath.index_toNat hle, rxReadPayload_received hpos hle⟩
  · simp at hq

/-- An operation other than RX_BYTE leaves the receive path or brings it back to AwaitStart. -/
theorem exec_rx_cases (h : exec i s = .next t) :
    (∃ b o, i = .rxByte b ∧ feed Config.ck s.draws b s.rx = .done t.rx o) ∨
    t.rx.state = .awaitStart ∨ t.rx = s.rx := by
  obtain ⟨b, r, o, rfl, hfeed, rfl⟩ | ⟨-, rfl⟩ | ⟨b, p, o, -, -, -, rfl⟩ | ⟨c, p, o, -, -, -, rfl⟩ | ⟨-, -, rfl⟩ |
    ⟨p, o, -, -, -, rfl⟩ | ⟨-, rfl⟩ | ⟨-, rfl⟩ := exec_next_cases h
  · exact .inl ⟨b, o, rfl, hfeed⟩
  · exact .inr (.inl rfl)
  · exact .inr (.inr rfl)
  · exact .inr (.inr rfl)
  · exact .inr (.inr rfl)
  · exact .inr (.inr rfl)
  · exact .inr (.inl rfl)
  · exact .inr (.inr rfl)

theorem exec_keeps_rxInv (hinv : RxInv s.rx) (h : exec i s = .next t) : RxInv t.rx := by
  obtain ⟨b, o, -, hfeed⟩ | hs | hrx := exec_rx_cases h
  · exact feed_keeps_rxInv hinv hfeed
  · exact .of_before_readCmd (.inl hs)
  · rwa [hrx]

/-- Where nothing of a payload is received there is nothing to ask of the written indices. -/
theorem RxSince.of_no_payload {w : List Nat} {r : RxPath}
    (h : r.state = .readPayload ∨ r.state = .readChecksum → r.received = 0) : RxSince w r :=
  fun hs j hj => by simp [h hs] at hj

theorem RxSince.mono {w w' : List Nat} {r : RxPath} (hsub : w ⊆ w') (h : RxSince w r) : RxSince w' r :=
  fun hs j hj => hsub (h hs j hj)

/-- A start marker leaves AwaitStart, and RESET goes there. -/
theorem state_of_since_anew (h : exec i s = .next t) (hi : i = .reset ∨ startsFrame i s = true) :
    t.rx.state = .awaitStart ∨ t.rx.state = .readLenHi := by
  rcases hi with rfl | hi
  · rw [exec_reset] at h
    cases h
    exact .inl rfl
  · simp only [startsFrame, Bool.and_eq_true, decide_eq_true_eq] at hi
    obtain ⟨rfl, hs⟩ := hi
    rw [exec_rxByte, feed_awaitStart hs] at h
    cases h
    exact .inr (by simp [rxAwaitStart])

theorem rxSince_of_not_anew {w : List Nat} (hi : ¬ (i = .reset ∨ startsFrame i s = true)) :
    rxSince w i s = (rxbStore i s).toList ++ w := by
  rw [rxSince, if_neg hi]

theorem rxbStore_rxByte (b : Byte) (hs : s.rx.state = .readPayload) :
    rxbStore (.rxByte b) s = some s.rx.index.toNat := by
  simp [rxbStore, hs]

theorem exec_keeps_rxSince {w : List Nat} (hinv : RxInv s.rx) (hw : RxSince w s.rx) (h : exec i s = .next t) :
    RxSince (rxSince w i s) t.rx := by
  by_cases hi : i = .reset ∨ startsFrame i s = true
  · exact .of_no_payload fun hs => by rcases state_of_since_anew h hi with hs' | hs' <;> simp [hs'] at hs
  · rw [rxSince_of_not_anew hi]
    obtain ⟨b, o, rfl, hfeed⟩ | hs | hrx := exec_rx_cases h
    · intro hs j hj
      obtain hzero | ⟨hpayload, hindex, hsucc⟩ := feed_received hinv hfeed hs
      · simp [hzero] at hj
      · rw [rxbStore_rxByte b hpayload, hindex]
        by_cases hlast : j = s.rx.received
        · simp [hlast]
        · exact List.mem_append_right _ (hw (.inl hpayload) j (by omega))
    · exact .of_no_payload (by simp [hs])
    · rw [hrx]
      exact hw.mono (List.subset_append_right _ _)

/-- What an operation that does not clear can do to tx_len: nothing, or count the byte it stores at it. -/
theorem exec_len_of_not_clears (h : exec i s = .next t) (hi : clearsPayload i s = false) :
    t.tx.len = s.tx.len ∨ (txbStore i s = some s.tx.len.toNat ∧ t.tx.len.toNat = s.tx.len.toNat + 1) := by
  obtain ⟨b, r, o, -, -, rfl⟩ | ⟨-, rfl⟩ | ⟨b, p, o, rfl, hidle, hpush, rfl⟩ | ⟨c, p, o, hc, hidle, hsend, rfl⟩ |
    ⟨rfl, hidle, rfl⟩ | ⟨p, o, rfl, -, hemit, rfl⟩ | ⟨rfl, rfl⟩ | ⟨-, rfl⟩ := exec_next_cases h
  · exact .inl rfl
  · exact .inl rfl
  · obtain ⟨-, ⟨-, rfl⟩ | ⟨hroom, rfl⟩⟩ := pushByte_done hpush
    · exact .inl rfl
    · exact .inr ⟨by simp [txbStore, hidle, TxPath.full, hroom], toNat_add_one hroom⟩
  · obtain ⟨hovf, -, -⟩ | ⟨-, -, rfl⟩ := sendFrame_done hsend
    · simp [clearsPayload, hidle, hc, hovf] at hi
    · exact .inl rfl
  · simp [clearsPayload, hidle] at hi
  · obtain ⟨-, rfl, -⟩ | ⟨-, rfl, -⟩ | ⟨-, rfl, -⟩ | ⟨-, -, rfl⟩ | ⟨-, -, -, rfl⟩ | ⟨hck, -, -⟩ :=
      emit_done_path hemit
    case inr.inr.inr.inr.inr => simp [clearsPayload, hck] at hi
    all_goals exact .inl rfl
  · simp [clearsPayload] at hi
  · exact .inl rfl

theorem exec_len_of_clears (h : exec i s = .next t) (hi : clearsPayload i s = true) : t.tx.len = 0x0000#16 := by
  simp only [clearsPayload, Bool.or_eq_true, Bool.and_eq_true, decide_eq_true_eq] at hi
  obtain (rfl | ⟨rfl, hck⟩) | ⟨hidle, rfl | ⟨hc, hovf⟩⟩ := hi
  · rw [exec_reset] at h
    cases h
    rfl
  · rw [exec_txEmit, emit_ck hck] at h
    cases h
    rfl
  · rw [exec_txClear, whenIdle_idle hidle] at h
    cases h
    rfl
  · obtain ⟨c, hc⟩ := Option.isSome_iff_exists.1 hc
    rw [exec_of_commandOf hc, sendCommand, whenIdle_idle hidle, sendFrame, if_pos hovf] at h
    cases h
    rfl

theorem exec_keeps_txSince {w : List Nat} (hw : TxSince w s.tx) (h : exec i s = .next t) :
    TxSince (txSince w i s) t.tx := by
  intro j hj
  cases hi : clearsPayload i s with
  | true => simp [exec_len_of_clears h hi] at hj
  | false =>
    rw [txSince, hi]
    obtain hlen | ⟨hstore, hlen⟩ := exec_len_of_not_clears h hi
    · exact List.mem_append_right _ (hw j (by rwa [← hlen]))
    · rw [hstore]
      by_cases hlast : j = s.tx.len.toNat
      · simp [hlast]
      · exact List.mem_append_right _ (hw j (by omega))

end

theorem sinceAfter_cons_next {since : List Nat → Instr → State → List Nat} {i : Instr} {s t : State}
    (h : exec i s = .next t) (w : List Nat) (is : List Instr) :
    sinceAfter since w (i :: is) s = sinceAfter since (since w i s) is t := by
  simp only [sinceAfter, h]

/-- What every operation keeps of the written indices and the state, every run keeps. -/
theorem observe_keeps_since {since : List Nat → Instr → State → List Nat} {P : List Nat → State → Prop}
    (hstep : ∀ w i s t, P w s → exec i s = .next t → P (since w i s) t) {ops : List Instr} {w : List Nat}
    {s t : State} {outs : List Out} (hP : P w s) (h : observe ops s = some (outs, t)) :
    P (sinceAfter since w ops s) t := by
  induction ops generalizing w s outs with
  | nil => cases h; exact hP
  | cons i is ih =>
    obtain ⟨u, rest, hexec, hrest, -⟩ := runBy_cons_some h
    rw [sinceAfter_cons_next hexec]
    exact ih (hstep w i s u hP hexec) hrest

theorem observe_keeps_rxSince {ops : List Instr} {w : List Nat} {s t : State} {outs : List Out}
    (hinv : RxInv s.rx) (hw : RxSince w s.rx) (h : observe ops s = some (outs, t)) :
    RxSince (sinceAfter rxSince w ops s) t.rx :=
  (observe_keeps_since (P := fun w s => RxInv s.rx ∧ RxSince w s.rx)
    (fun _ _ _ _ hP hexec => ⟨exec_keeps_rxInv hP.1 hexec, exec_keeps_rxSince hP.1 hP.2 hexec⟩) ⟨hinv, hw⟩ h).2

theorem observe_keeps_txSince {ops : List Instr} {w : List Nat} {s t : State} {outs : List Out}
    (hw : TxSince w s.tx) (h : observe ops s = some (outs, t)) : TxSince (sinceAfter txSince w ops s) t.tx :=
  observe_keeps_since (P := fun w s => TxSince w s.tx) (fun _ _ _ _ => exec_keeps_txSince) hw h

/-- Settles O50: every operation keeps both, and at reset nothing is received and nothing pushed. -/
theorem writtenSinceMarkerAndClear : Obligations.WrittenSinceMarkerAndClear := by
  refine ⟨fun ops s t outs w v h => ⟨fun hinv hw => observe_keeps_rxSince hinv hw h,
    fun hv => observe_keeps_txSince hv h⟩, fun ops t outs h => ⟨?_, ?_⟩⟩
  · exact observe_keeps_rxSince .reset (.of_no_payload fun _ => rfl) h
  · exact observe_keeps_txSince (fun j hj => absurd hj j.not_lt_zero) h

end Sys2Proof.Machine
end

section
/-! Runs of a parser and a framer built with any checksum parameters (R41): the bytes of a frame through RX_BYTE, and
a payload through TX_PUSH, TX_SEND and TX_EMIT. -/

namespace Sys2Proof.Machine

/-- The contents after writing bytes at consecutive indices from `n` on. -/
def Memory.writeFrom : Memory → Nat → List Byte → Memory
  | m, _, [] => m
  | m, n, v :: vs => Memory.writeFrom (Memory.write m n v) (n + 1) vs

theorem memReadTo_writeFrom (d : Nat) (b : Buffer) (vs : List Byte) (m : Memory) (n : Nat) :
    memReadTo d b (Memory.writeFrom m n vs) (n + vs.length) = memReadTo d b m n ++ vs := by
  induction vs generalizing m n with
  | nil => simp [Memory.writeFrom]
  | cons v vs ih =>
    have hlen : n + (v :: vs).length = n + 1 + vs.length := by simp; omega
    rw [Memory.writeFrom, hlen, ih, memReadTo_write_next, List.append_assoc, List.singleton_append]

/-- Putting LENGTH's halves together again gives it back. -/
theorem lenWithLo_lenFromHi (n : U16) : lenWithLo (lenFromHi (hiByte n)) (loByte n) = n := by
  simp only [lenWithLo, lenFromHi, hiByte, loByte, zext16]
  ext i hi
  by_cases h : i < 8
  · simp [h, hi]
  · simp [h, show 8 + (i - 8) = i by omega, show i - 8 < 8 by omega, BitVec.getLsbD_eq_getElem hi]

/-- The transmit path after a TX_PUSH with room (R101). -/
def TxPath.pushed (t : TxPath) (b : Byte) : TxPath :=
  { t with buf := Memory.write t.buf t.len.toNat b, len := t.len + 1#16 }

/-- The transmit path after a TX_EMIT in Payload (R104). -/
def TxPath.payloadEmitted (p : CkParams) (d : Nat) (t : TxPath) : TxPath :=
  { t with acc := ckStep p t.acc (memRead d .txb t.buf t.idx.toNat), idx := t.idx + 1#16,
           phase := if t.idx + 1#16 = t.len then .ck else .payload }

section
variable {p : CkParams} {s : State}

theorem execWith_rxByte {b : Byte} {r : RxPath} {o : Out} (h : feed p s.draws b s.rx = .done r o) :
    execWith p (.rxByte b) s = .next (s.withRx r o) := by
  simp only [execWith, rxByteWith, h, commitRx]

theorem execWith_txEmit {t : TxPath} {o : Out} (h : emit p s.draws s.tx = .done t o) :
    execWith p .txEmit s = .next (s.withTx t o) := by
  simp only [execWith, txEmitWith, h, commitTx]

theorem execWith_txPush (b : Byte) (hidle : s.tx.phase = .idle) (hroom : s.tx.len ≠ 0xFFFF#16) :
    execWith p (.txPush b) s = .next (s.withTx (s.tx.pushed b) Out.quiet) := by
  simp [TxPath.pushed, execWith, execTxPush, whenIdle_idle hidle, pushByte, TxPath.full, hroom, commitTx]

theorem execWith_txSend (c : Byte) (hidle : s.tx.phase = .idle) (hovf : s.tx.ovf = false) :
    execWith p (.txSend c) s =
      .next (s.withTx { s.tx with cmd := c, idx := 0x0000#16, phase := .start } Out.quiet) := by
  simp [execWith, execTxSend, sendCommand, whenIdle_idle hidle, sendFrame, hovf, commitTx]

/-- A first operation that is performed outputs its step's output. -/
theorem observeWith_cons_performed {i : Instr} {is : List Instr} {t u : State} {outs : List Out}
    (h : execWith p i s = .next t) (ht : t.handshake = .performed) (hrest : observeWith p is t = some (outs, u)) :
    observeWith p (i :: is) s = some (t.out :: outs, u) := by
  rw [observeWith, runBy_cons_next h, ← observeWith, hrest]
  simp [stepOuts, ht]

theorem observeWith_append {is js : List Instr} {t u : State} {outs outs' : List Out}
    (h : observeWith p is s = some (outs, t)) (h' : observeWith p js t = some (outs', u)) :
    observeWith p (is ++ js) s = some (outs ++ outs', u) := by
  rw [observeWith, runBy_append h, ← observeWith, h']
  rfl

theorem observeRxWith_append {bs bs' : List Byte} {t u : State} {outs outs' : List Out}
    (h : observeRxWith p bs s = some (outs, t)) (h' : observeRxWith p bs' t = some (outs', u)) :
    observeRxWith p (bs ++ bs') s = some (outs ++ outs', u) := by
  rw [observeRxWith, List.map_append]
  exact observeWith_append h h'

/-- A first byte that is received outputs its event. -/
theorem observeRxWith_cons {b : Byte} {bs : List Byte} {r : RxPath} {o : Out} {outs : List Out} {u : State}
    (h : feed p s.draws b s.rx = .done r o) (hrest : observeRxWith p bs (s.withRx r o) = some (outs, u)) :
    observeRxWith p (b :: bs) s = some (o :: outs, u) :=
  observeWith_cons_performed (execWith_rxByte h) rfl hrest

theorem observeWith_nil : observeWith p [] s = some ([], s) := rfl

theorem observeRxWith_nil : observeRxWith p [] s = some ([], s) := rfl

theorem RxPath.index_ne {r : RxPath} (hpos : 1 ≤ r.rem.toNat) (hle : r.rem.toNat ≤ r.len.toNat) :
    r.index ≠ 0xFFFF#16 := by
  simp only [RxPath.index]
  bv_omega

/-- The rest of a payload: the bytes are stored one after another from the received ones on, and ReadChecksum
follows (R135). With no byte to come the parser is in ReadChecksum already. -/
theorem observeRxWith_payload (ys : List Byte) (s : State) (hrem : s.rx.rem.toNat = ys.length)
    (hle : s.rx.rem.toNat ≤ s.rx.len.toNat)
    (hs : s.rx.state = if s.rx.rem = 0x0000#16 then .readChecksum else .readPayload) :
    ∃ t, observeRxWith p ys s = some (List.replicate ys.length Out.quiet, t) ∧ t.tx = s.tx ∧ t.draws = s.draws ∧
      t.rx = { s.rx with state := .readChecksum, rem := 0x0000#16, acc := ckFold p s.rx.acc ys,
                         buf := Memory.writeFrom s.rx.buf s.rx.received ys } := by
  induction ys generalizing s with
  | nil =>
    have hzero : s.rx.rem = 0x0000#16 := BitVec.eq_of_toNat_eq hrem
    rw [if_pos hzero] at hs
    exact ⟨s, rfl, rfl, rfl, by rw [← hs, ← hzero]; rfl⟩
  | cons y ys ih =>
    have hpos : 1 ≤ s.rx.rem.toNat := by simp [hrem]
    have hne : s.rx.rem ≠ 0x0000#16 := fun h => by simp [h] at hpos
    rw [if_neg hne] at hs
    have hfeed := feed_readPayload (p := p) (d := s.draws) (b := y) hs (RxPath.index_ne hpos hle)
    have hdec : (s.rx.rem - 1#16).toNat = s.rx.rem.toNat - 1 := by bv_omega
    obtain ⟨t, hrun, htx, hdraws, hrx⟩ := ih (s.withRx (rxReadPayload p y s.rx) Out.quiet)
      (by simp [rxReadPayload, hdec, hrem]) (by simp only [State.withRx_rx, rxReadPayload, hdec]; omega) rfl
    refine ⟨t, observeRxWith_cons hfeed hrun, htx, hdraws, ?_⟩
    rw [hrx, State.withRx_rx, rxReadPayload_received hpos hle, rxReadPayload_buf hle]
    rfl

/-- The parser after START, a LENGTH and a COMMAND: the whole payload is still to come. -/
def RxPath.afterHeader (p : CkParams) (n : U16) (c : Byte) (m : Memory) : RxPath :=
  ⟨if n = 0x0000#16 then .readChecksum else .readPayload, n, c, n, ckFold p p.init (header n c), m⟩

/-- START and the header of a frame: from AwaitStart the parser loads LENGTH and COMMAND (R131 to R134). -/
theorem observeRxWith_header (n : U16) (c : Byte) (s : State) (hs : s.rx.state = .awaitStart) :
    observeRxWith p (Config.start :: header n c) s = 
      some (List.replicate 4 Out.quiet, s.withRx (.afterHeader p n c s.rx.buf) Out.quiet) := by
  refine observeRxWith_cons (feed_awaitStart hs) ?_
  refine observeRxWith_cons (r := rxReadLenHi p (hiByte n) (rxAwaitStart p Config.start s.rx))
    (by simp [feed, rxAwaitStart]) ?_
  refine observeRxWith_cons (r := ⟨.readCmd, n, s.rx.cmd, n, ckFold p p.init [hiByte n, loByte n], s.rx.buf⟩)
    (by simp [feed, rxAwaitStart, rxReadLenHi, rxReadLenLo, lenWithLo_lenFromHi]) ?_
  exact observeRxWith_cons (r := .afterHeader p n c s.rx.buf) rfl observeRxWith_nil

/-- START and the covered bytes of a frame: from AwaitStart the parser comes to ReadChecksum holding the frame. -/
theorem observeRxWith_body (c : Byte) (payload : List Byte) (s : State) (hs : s.rx.state = .awaitStart)
    (hlen : payload.length ≤ 65535) :
    ∃ t, observeRxWith p (Config.start :: frameBody c payload) s =
        some (List.replicate (payload.length + 4) Out.quiet, t) ∧ t.tx = s.tx ∧ t.draws = s.draws ∧
      t.rx = ⟨.readChecksum, BitVec.ofNat 16 payload.length, c, 0x0000#16,
              ckFold p p.init (frameBody c payload), Memory.writeFrom s.rx.buf 0 payload⟩ := by
  have hnat : (BitVec.ofNat 16 payload.length).toNat = payload.length := by simp; omega
  have hheader := observeRxWith_header (p := p) (BitVec.ofNat 16 payload.length) c s hs
  obtain ⟨t, hrun, htx, hdraws, hrx⟩ := observeRxWith_payload (p := p) payload
    (s.withRx (.afterHeader p (BitVec.ofNat 16 payload.length) c s.rx.buf) Out.quiet) hnat le_rfl rfl
  refine ⟨t, ?_, htx, hdraws, ?_⟩
  · rw [frameBody, ← List.cons_append, observeRxWith_append hheader hrun, Nat.add_comm, List.replicate_add]
  · rw [hrx]
    simp [RxPath.afterHeader, RxPath.received, frameBody]

/-- A whole frame with CHECKSUM byte `b`: no event before the last byte, and there the frame if `b` is the checksum
of the covered bytes under the parser's parameters, and Corrupt if not (R136, R140). -/
theorem observeRxWith_frame (c b : Byte) (payload : List Byte) (s : State) (hs : s.rx.state = .awaitStart)
    (hlen : payload.length ≤ 65535) :
    ∃ t, observeRxWith p (Config.start :: frameBody c payload ++ [b]) s =
        some (List.replicate (payload.length + 4) Out.quiet ++
          [emitRx (if b = checksum p (frameBody c payload) then .frameReady ⟨c, payload⟩ else .corrupt)], t) ∧
      t.rx.state = .awaitStart ∧ t.tx = s.tx ∧ t.draws = s.draws := by
  obtain ⟨t, hrun, htx, hdraws, hrx⟩ := observeRxWith_body (p := p) c payload s hs hlen
  have hverdict : rxVerdict p t.draws b t.rx =
      if b = checksum p (frameBody c payload) then .frameReady ⟨c, payload⟩ else .corrupt := by
    have hnat : (BitVec.ofNat 16 payload.length).toNat = 0 + payload.length := by simp; omega
    simp only [rxVerdict, hrx]
    rw [hnat, memReadTo_writeFrom, memReadTo_zero, List.nil_append]
    rfl
  have hlast := observeRxWith_cons (feed_readChecksum (p := p) (d := t.draws) (b := b) (r := t.rx) (by rw [hrx]))
    observeRxWith_nil
  rw [hverdict] at hlast
  exact ⟨_, observeRxWith_append hrun hlast, rfl, htx, hdraws⟩

/-- Pushes with room: the bytes are stored one after another from tx_len on (R101). -/
theorem observeWith_pushes (ys : List Byte) (s : State) (hidle : s.tx.phase = .idle)
    (hroom : s.tx.len.toNat + ys.length ≤ 65535) :
    ∃ t, observeWith p (ys.map .txPush) s = some (List.replicate ys.length Out.quiet, t) ∧ t.rx = s.rx ∧
      t.draws = s.draws ∧ t.tx = { s.tx with len := BitVec.ofNat 16 (s.tx.len.toNat + ys.length),
                                             buf := Memory.writeFrom s.tx.buf s.tx.len.toNat ys } := by
  induction ys generalizing s with
  | nil => exact ⟨s, rfl, rfl, rfl, by simp [Memory.writeFrom]⟩
  | cons y ys ih =>
    rw [List.length_cons] at hroom
    have hne : s.tx.len ≠ 0xFFFF#16 := fun h => by simp [h] at hroom
    have hpush := execWith_txPush (p := p) y hidle hne
    have hlen : (s.tx.pushed y).len.toNat = s.tx.len.toNat + 1 := toNat_add_one hne
    obtain ⟨t, hrun, hrx, hdraws, htx⟩ := ih (s.withTx (s.tx.pushed y) Out.quiet) hidle
      (by rw [State.withTx_tx, hlen]; omega)
    refine ⟨t, observeWith_cons_performed hpush rfl hrun, hrx, hdraws, ?_⟩
    rw [htx, State.withTx_tx, hlen, List.length_cons, Nat.add_right_comm, Nat.add_assoc]
    rfl

/-- A first TX_EMIT that emits outputs its byte. -/
theorem observeWith_emit_cons {is : List Instr} {t : TxPath} {o : Out} {outs : List Out} {u : State}
    (h : emit p s.draws s.tx = .done t o) (hrest : observeWith p is (s.withTx t o) = some (outs, u)) :
    observeWith p (.txEmit :: is) s = some (o :: outs, u) :=
  observeWith_cons_performed (execWith_txEmit h) rfl hrest

theorem emit_payload {d : Nat} {t : TxPath} (hp : t.phase = .payload) (hidx : t.idx ≠ 0xFFFF#16) :
    emit p d t = .done (t.payloadEmitted p d) (emitTx (memRead d .txb t.buf t.idx.toNat)) := by
  simp [TxPath.payloadEmitted, emit, hp, emitPayload, (indexExists_iff _).2 hidx, emitCovered]

/-- The rest of a payload: the bytes from tx_idx on are emitted, and Ck follows (R104). With no byte left the framer
is in Ck already. -/
theorem observeWith_emits_payload (n : Nat) (s : State) (hidx : s.tx.idx.toNat + n = s.tx.len.toNat)
    (hp : s.tx.phase = if s.tx.idx = s.tx.len then .ck else .payload) :
    ∃ t, observeWith p (List.replicate n .txEmit) s =
        some (((List.range' s.tx.idx.toNat n).map (memRead s.draws .txb s.tx.buf)).map emitTx, t) ∧
      t.rx = s.rx ∧ t.draws = s.draws ∧
      t.tx = { s.tx with phase := .ck, idx := s.tx.len,
                         acc := ckFold p s.tx.acc ((List.range' s.tx.idx.toNat n).map
                           (memRead s.draws .txb s.tx.buf)) } := by
  induction n generalizing s with
  | zero =>
    have heq : s.tx.idx = s.tx.len := BitVec.eq_of_toNat_eq hidx
    rw [if_pos heq] at hp
    exact ⟨s, rfl, rfl, rfl, by rw [← hp, ← heq]; rfl⟩
  | succ n ih =>
    have hne : s.tx.idx ≠ s.tx.len := fun h => by simp [h] at hidx
    have hlt : s.tx.idx ≠ 0xFFFF#16 := fun h => by
      have := s.tx.len.isLt
      simp [h] at hidx
      omega
    rw [if_neg hne] at hp
    have hemit := emit_payload (p := p) (d := s.draws) hp hlt
    have hnext : (s.tx.payloadEmitted p s.draws).idx.toNat = s.tx.idx.toNat + 1 := toNat_add_one hlt
    obtain ⟨t, hrun, hrx, hdraws, htx⟩ := ih
      (s.withTx (s.tx.payloadEmitted p s.draws) (emitTx (memRead s.draws .txb s.tx.buf s.tx.idx.toNat)))
      (by rw [State.withTx_tx, hnext, Nat.add_right_comm]; exact hidx) rfl
    rw [State.withTx_tx, hnext] at hrun htx
    exact ⟨t, observeWith_emit_cons hemit hrun, hrx, hdraws, htx⟩

/-- The transmit path after START and the header have been emitted. -/
def TxPath.headerEmitted (p : CkParams) (t : TxPath) : TxPath :=
  { t with acc := ckFold p p.init (header t.len t.cmd), phase := if t.len = 0x0000#16 then .ck else .payload }

/-- The first four TX_EMIT of a frame emit START and the header (R104). -/
theorem observeWith_emits_header (s : State) (hp : s.tx.phase = .start) :
    observeWith p (List.replicate 4 .txEmit) s =
      some ((Config.start :: header s.tx.len s.tx.cmd).map emitTx,
        s.withTx (s.tx.headerEmitted p) (emitTx s.tx.cmd)) := by
  refine observeWith_emit_cons (t := { s.tx with acc := p.init, phase := .lenHi })
    (by simp [emit, hp, emitStart]) ?_
  refine observeWith_emit_cons rfl ?_
  refine observeWith_emit_cons rfl ?_
  exact observeWith_emit_cons (t := s.tx.headerEmitted p) rfl rfl

/-- The frame of a payload the buffer can hold (30_encoding.md R79). -/
theorem frameBytes_eq_some {c : Byte} {payload wire : List Byte} (h : frameBytes p c payload = some wire) :
    payload.length ≤ 65535 ∧ wire = Config.start :: frameBody c payload ++ [checksum p (frameBody c payload)] := by
  unfold frameBytes at h
  split at h
  · cases h
  · next hlen =>
    cases h
    exact ⟨Nat.le_of_not_lt hlen, rfl⟩

/-- The covered bytes of the pushed payload. -/
theorem frameBody_memReadTo (c : Byte) (d : Nat) (b : Buffer) (m : Memory) (n : U16) :
    frameBody c (memReadTo d b m n.toNat) = header n c ++ memReadTo d b m n.toNat := by
  simp [frameBody]

/-- A frame from Start to its end: L + 5 TX_EMIT emit its bytes and leave the framer Idle and empty (R104, R105). -/
theorem observeWith_emits_frame (s : State) (payload wire : List Byte) (hp : s.tx.phase = .start)
    (hidx : s.tx.idx = 0x0000#16) (hstored : memReadTo s.draws .txb s.tx.buf s.tx.len.toNat = payload)
    (hwire : frameBytes p s.tx.cmd payload = some wire) :
    ∃ t, observeWith p (List.replicate (s.tx.len.toNat + 5) .txEmit) s = some (wire.map emitTx, t) ∧
      t.rx = s.rx ∧ t.draws = s.draws ∧ t.tx.phase = .idle ∧ t.tx.len = 0x0000#16 ∧ t.tx.ovf = s.tx.ovf := by
  obtain ⟨-, rfl⟩ := frameBytes_eq_some hwire
  obtain ⟨t, hrun, hrx, hdraws, htx⟩ := observeWith_emits_payload (p := p) s.tx.len.toNat
    (s.withTx (s.tx.headerEmitted p) (emitTx s.tx.cmd))
    (by simp [TxPath.headerEmitted, hidx]) (by simp [TxPath.headerEmitted, hidx, eq_comm (a := s.tx.len)])
  simp only [State.withTx_rx, State.withTx_draws, State.withTx_tx, TxPath.headerEmitted] at hrun hrx hdraws htx
  have hbytes : (List.range' s.tx.idx.toNat s.tx.len.toNat).map (memRead s.draws .txb s.tx.buf) = payload := by
    rw [← hstored, hidx, memReadTo, List.range_eq_range']
    rfl
  have hbody : frameBody s.tx.cmd payload = header s.tx.len s.tx.cmd ++ payload := by
    rw [← hstored, frameBody_memReadTo]
  have hck := emit_ck (p := p) (d := t.draws) (t := t.tx) (by rw [htx])
  have hsum : ckFinal p t.tx.acc = checksum p (frameBody s.tx.cmd payload) := by
    rw [htx, checksum, hbody, ckFold_append, ← hbytes]
  have hops : List.replicate (s.tx.len.toNat + 5) Instr.txEmit =
      List.replicate 4 Instr.txEmit ++ List.replicate s.tx.len.toNat Instr.txEmit ++ [Instr.txEmit] := by
    rw [← List.replicate_add, ← List.replicate_succ', Nat.add_comm 4]
  refine ⟨t.withTx { t.tx with phase := .idle, len := 0x0000#16, idx := 0x0000#16 } (emitTx (ckFinal p t.tx.acc)),
    ?_, hrx, hdraws, rfl, rfl, by simp [htx]⟩
  rw [hops, observeWith_append (observeWith_append (observeWith_emits_header s hp) hrun)
    (observeWith_emit_cons hck observeWith_nil), hsum]
  simp [hbody, hbytes]

/-- Pushing a payload, sending a command and emitting the frame: the bytes of `frame_bytes` (R105). -/
theorem observeWith_encode (c : Byte) (payload wire : List Byte) (s : State) (hidle : s.tx.phase = .idle)
    (hlen : s.tx.len = 0x0000#16) (hovf : s.tx.ovf = false) (hwire : frameBytes p c payload = some wire) :
    ∃ t, observeWith p
        (payload.map Instr.txPush ++ [Instr.txSend c] ++ List.replicate (payload.length + 5) Instr.txEmit) s =
        some (List.replicate (payload.length + 1) Out.quiet ++ wire.map emitTx, t) ∧
      t.tx.phase = .idle ∧ t.tx.len = 0x0000#16 ∧ t.tx.ovf = false ∧ t.rx = s.rx := by
  obtain ⟨hroom, -⟩ := frameBytes_eq_some hwire
  obtain ⟨u, hpush, hurx, hudraws, hutx⟩ := observeWith_pushes (p := p) payload s hidle (by simpa [hlen] using hroom)
  rw [hlen] at hutx
  have hsend := observeWith_cons_performed (p := p) (is := [])
    (execWith_txSend c (by rw [hutx]; exact hidle) (by rw [hutx]; exact hovf)) rfl observeWith_nil
  have hnat : u.tx.len.toNat = 0 + payload.length := by
    rw [hutx]
    exact Nat.mod_eq_of_lt (by simp; omega)
  have hstored : memReadTo u.draws .txb u.tx.buf u.tx.len.toNat = payload := by
    rw [hnat, hutx]
    exact memReadTo_writeFrom u.draws .txb payload s.tx.buf 0
  obtain ⟨t, hemit, htrx, -, hphase, htlen, htovf⟩ := observeWith_emits_frame (p := p)
    (u.withTx { u.tx with cmd := c, idx := 0x0000#16, phase := .start } Out.quiet) payload wire rfl rfl hstored hwire
  rw [State.withTx_tx, hnat, Nat.zero_add] at hemit
  refine ⟨t, ?_, hphase, htlen, ?_, htrx.trans hurx⟩
  · rw [observeWith_append (observeWith_append hpush hsend) hemit, List.replicate_succ']
    rfl
  · rw [htovf, State.withTx_tx, hutx]
    exact hovf

end

theorem bytesOf_append (xs ys : List Out) : bytesOf (xs ++ ys) = bytesOf xs ++ bytesOf ys :=
  List.filterMap_append

theorem bytesOf_replicate_quiet (n : Nat) : bytesOf (List.replicate n Out.quiet) = [] := by
  simp [bytesOf]

theorem bytesOf_map_emitTx (bs : List Byte) : bytesOf (bs.map emitTx) = bs := by
  simp [bytesOf, List.filterMap_map, Function.comp_def]

/-- Settles O51: the framer emits the wire frame of its parameters (`observeWith_encode`), and the parser compares that
frame's checksum with the one its own parameters give (`observeRxWith_frame`). -/
theorem linkUnderAnyParameters : Obligations.LinkUnderAnyParameters := by
  refine ⟨fun i s => ⟨exec_eq_execWith i s, step_eq_stepWith s⟩,
    fun p q s r c payload wire hidle hlen hovf hawait hwire => ⟨?_, ?_⟩⟩
  · obtain ⟨t, hrun, hphase, htlen, htovf, -⟩ := observeWith_encode c payload wire s hidle hlen hovf hwire
    refine ⟨_, t, hrun, ?_, hphase, htlen, htovf⟩
    rw [bytesOf_append, bytesOf_replicate_quiet, bytesOf_map_emitTx, List.nil_append]
  · obtain ⟨hroom, rfl⟩ := frameBytes_eq_some hwire
    obtain ⟨t, hrun, hs, -, -⟩ := observeRxWith_frame (p := q) c (checksum p (frameBody c payload)) payload r
      hawait hroom
    exact ⟨t, hrun, hs⟩

end Sys2Proof.Machine
end

section
/-! Operations as functions of their own path, where one faults, and that under the invariant no step does: index 0xFFFF
is never formed (R50). -/

namespace Sys2Proof.Machine

/-- The operations as `exec` tells them apart: those that send a COMMAND byte are one kind. -/
theorem instr_cases (i : Instr) :
    (∃ b, i = .rxByte b) ∨ i = .rxFlush ∨ (∃ b, i = .txPush b) ∨ (∃ c, commandOf i = some c) ∨ i = .txClear ∨
      i = .txEmit ∨ i = .reset := by
  cases i <;> simp [commandOf]

/-- An operation of the receive path computes from the draw and that path alone. -/
theorem exec_eq_commitRx {i : Instr} (hi : receivePath i = true) :
    ∃ f : Nat → RxPath → PathResult RxPath, ∀ s, exec i s = commitRx s (f s.draws s.rx) := by
  cases i with
  | rxByte b => exact ⟨fun d => feed Config.ck d b, fun _ => rfl⟩
  | rxFlush => exact ⟨fun _ => flush, fun _ => rfl⟩
  | _ => cases hi

/-- An operation of the transmit path computes from the draw and that path alone. -/
theorem exec_eq_commitTx {i : Instr} (hi : transmitPath i = true) :
    ∃ f : Nat → TxPath → PathResult TxPath, ∀ s, exec i s = commitTx s (f s.draws s.tx) := by
  obtain ⟨b, rfl⟩ | rfl | ⟨b, rfl⟩ | ⟨c, hc⟩ | rfl | rfl | rfl := instr_cases i
  · cases hi
  · cases hi
  · exact ⟨fun _ t => whenIdle t (pushByte b), fun _ => rfl⟩
  · exact ⟨fun _ t => whenIdle t (sendFrame c), exec_of_commandOf hc⟩
  · exact ⟨fun _ t => whenIdle t clearPayload, fun _ => rfl⟩
  · exact ⟨emit Config.ck, fun _ => rfl⟩
  · cases hi

section
variable {s : State} {f : Fault}

@[simp] theorem commitRx_eq_fault {x : PathResult RxPath} : commitRx s x = .fault f ↔ x = .fault f := by
  cases x <;> simp [commitRx]

@[simp] theorem commitTx_eq_fault {x : PathResult TxPath} : commitTx s x = .fault f ↔ x = .fault f := by
  cases x <;> simp [commitTx]

@[simp] theorem commitRx_ne_refused {x : PathResult RxPath} {r : Refusal} : commitRx s x ≠ .refused r := by
  cases x <;> simp [commitRx]

@[simp] theorem commitTx_ne_refused {x : PathResult TxPath} {r : Refusal} : commitTx s x ≠ .refused r := by
  cases x <;> simp [commitTx]

/-- RX_BYTE faults on one computed index only. -/
theorem feed_eq_fault {p : CkParams} {d : Nat} {b : Byte} {r : RxPath} :
    feed p d b r = .fault f ↔ r.state = .readPayload ∧ r.index = 0xFFFF#16 ∧ f = .noSuchIndex .rxb := by
  cases hs : r.state <;> simp only [feed, hs]
  case readPayload =>
    by_cases hidx : r.index = 0xFFFF#16 <;> simp [indexExists_iff, hidx, eq_comm (a := f)]
  all_goals simp

/-- TX_EMIT faults on one index only. -/
theorem emit_eq_fault {p : CkParams} {d : Nat} {t : TxPath} :
    emit p d t = .fault f ↔ t.phase = .payload ∧ t.idx = 0xFFFF#16 ∧ f = .noSuchIndex .txb := by
  cases hp : t.phase <;> simp only [emit, hp]
  case payload =>
    by_cases hidx : t.idx = 0xFFFF#16 <;> simp [emitPayload, emitCovered, indexExists_iff, hidx, eq_comm (a := f)]
  all_goals simp [emitStart, emitCovered, emitCmd, emitCk]

theorem pushByte_ne_fault {b : Byte} {t : TxPath} : pushByte b t ≠ .fault f := by
  unfold pushByte
  split <;> simp

theorem sendFrame_ne_fault {c : Byte} {t : TxPath} : sendFrame c t ≠ .fault f := by
  unfold sendFrame
  split <;> simp

/-- A held operation does not fault. -/
theorem whenIdle_ne_fault {t : TxPath} {perform : TxPath → PathResult TxPath} (h : perform t ≠ .fault f) :
    whenIdle t perform ≠ .fault f := by
  unfold whenIdle
  split
  · simp
  · exact h

/-- Only RX_BYTE and TX_EMIT form an index that may not exist. -/
theorem exec_eq_fault {i : Instr} :
    exec i s = .fault f ↔
      (∃ b, i = .rxByte b ∧ feed Config.ck s.draws b s.rx = .fault f) ∨
      (i = .txEmit ∧ emit Config.ck s.draws s.tx = .fault f) := by
  obtain ⟨b, rfl⟩ | rfl | ⟨b, rfl⟩ | ⟨c, hc⟩ | rfl | rfl | rfl := instr_cases i
  · simp [exec_rxByte]
  · simp [exec, execRxFlush, flush]
  · simp [exec, execTxPush, whenIdle_ne_fault pushByte_ne_fault]
  · rw [exec_of_commandOf hc]
    have hrx : ∀ b, i ≠ .rxByte b := by rintro b rfl; simp [commandOf] at hc
    have htx : i ≠ .txEmit := by rintro rfl; simp [commandOf] at hc
    simp [sendCommand, whenIdle_ne_fault sendFrame_ne_fault, hrx, htx]
  · simp [exec_txClear, whenIdle_ne_fault (perform := clearPayload) (by simp [clearPayload])]
  · simp [exec_txEmit]
  · simp [exec_reset]

/-- Every operation has a meaning. -/
theorem exec_ne_refused (i : Instr) (s : State) (r : Refusal) : exec i s ≠ .refused r := by
  obtain hi | hi | rfl := receivePath_or_transmitPath_or_reset i
  · obtain ⟨f, hf⟩ := exec_eq_commitRx hi
    rw [hf]
    exact commitRx_ne_refused
  · obtain ⟨f, hf⟩ := exec_eq_commitTx hi
    rw [hf]
    exact commitTx_ne_refused
  · rw [exec_reset]
    nofun

end

/-- Settles O41: of the operations only RX_BYTE and TX_EMIT can fault, each in one state on one index. -/
theorem faultsExactlyAtMissingIndex : Obligations.FaultsExactlyAtMissingIndex := by
  intro i s
  refine ⟨fun f => ?_, exec_ne_refused i s⟩
  simp only [exec_eq_fault, feed_eq_fault, emit_eq_fault, RxPath.index, exists_and_right]

/-- The invariants of R37 and R38 keep both indices below 0xFFFF. -/
theorem exec_ne_fault {s : State} (hrx : RxInv s.rx) (htx : TxInv s.tx) (i : Instr) (f : Fault) :
    exec i s ≠ .fault f := by
  rw [Ne, exec_eq_fault]
  rintro (⟨b, -, hfeed⟩ | ⟨-, hemit⟩)
  · obtain ⟨hs, hidx, -⟩ := feed_eq_fault.1 hfeed
    obtain ⟨hpos, hle⟩ := hrx.readPayload hs
    exact RxPath.index_ne hpos hle hidx
  · obtain ⟨hp, hidx, -⟩ := emit_eq_fault.1 hemit
    have hlt : s.tx.idx.toNat < s.tx.len.toNat := htx.payload hp
    bv_omega

/-- What a faulting step is: its operation faults. -/
theorem step_fault {s : State} {f : Fault} (h : step s = .fault f) :
    ∃ i u, fetch s = .operation i u ∧ exec i u = .fault f := by
  unfold step at h
  split at h
  · cases h
  · next i u hu => exact ⟨i, u, hu, h⟩
  · cases h

/-- Settles O40: fetching touches neither path, and no operation faults under the invariants of both. -/
theorem noStepFaultsUnderInvariant : Obligations.NoStepFaultsUnderInvariant := by
  intro s hinv f hstep
  obtain ⟨i, u, hfetch, hexec⟩ := step_fault hstep
  obtain ⟨hrx, htx, -⟩ := fetch_operation hfetch
  exact exec_ne_fault (hrx ▸ hinv.rx) (htx ▸ hinv.tx) i f hexec

end Sys2Proof.Machine
end

section
/-! The independence of the two paths (R59): an operation reads its own path and the draw and leaves the other path, so
it commutes with the other path's operations and a run splits into the runs of its two paths. -/

namespace Sys2Proof.Machine

/-- What the receive path's operations read: that path and the draw. -/
def State.rxView (s : State) : RxPath × Nat := (s.rx, s.draws)

/-- What the transmit path's operations read: that path and the draw. -/
def State.txView (s : State) : TxPath × Nat := (s.tx, s.draws)

/-- The operations of `path` do the same from any two states with the same `view`. -/
def ReadsOnly {α : Type} (path : Instr → Bool) (view : State → α) : Prop :=
  ∀ (i : Instr) (s s' t : State), path i = true → view s' = view s → exec i s = .next t →
    ∃ t', exec i s' = .next t' ∧ view t' = view t ∧ t'.out = t.out ∧ t'.handshake = t.handshake

/-- The operations of `path` leave `view` as it is. -/
def Keeps {α : Type} (path : Instr → Bool) (view : State → α) : Prop :=
  ∀ (i : Instr) (s t : State), path i = true → exec i s = .next t → view t = view s

theorem receivePath_readsOnly_rxView : ReadsOnly receivePath State.rxView := by
  intro i s s' t hi hview h
  obtain ⟨hrx, hdraws⟩ := Prod.mk.inj hview
  obtain ⟨f, hf⟩ := exec_eq_commitRx hi
  have hs' : exec i s' = commitRx s' (f s.draws s.rx) := by rw [hf, hrx, hdraws]
  rw [hf] at h
  obtain ⟨r, o, hx, rfl⟩ | ⟨hx, rfl⟩ := commitRx_next h
  · exact ⟨s'.withRx r o, by rw [hs', hx]; rfl, by simp [State.rxView, hdraws], rfl, rfl⟩
  · exact ⟨s'.hold, by rw [hs', hx]; rfl, hview, rfl, rfl⟩

theorem transmitPath_readsOnly_txView : ReadsOnly transmitPath State.txView := by
  intro i s s' t hi hview h
  obtain ⟨htx, hdraws⟩ := Prod.mk.inj hview
  obtain ⟨f, hf⟩ := exec_eq_commitTx hi
  have hs' : exec i s' = commitTx s' (f s.draws s.tx) := by rw [hf, htx, hdraws]
  rw [hf] at h
  obtain ⟨p, o, hx, rfl⟩ | ⟨hx, rfl⟩ := commitTx_next h
  · exact ⟨s'.withTx p o, by rw [hs', hx]; rfl, by simp [State.txView, hdraws], rfl, rfl⟩
  · exact ⟨s'.hold, by rw [hs', hx]; rfl, hview, rfl, rfl⟩

theorem receivePath_keeps_txView : Keeps receivePath State.txView := by
  intro i s t hi h
  obtain ⟨htx, hdraws⟩ := (onlyItsOwnPathIsWritten i s t h).2.1 hi
  exact Prod.ext htx hdraws

theorem transmitPath_keeps_rxView : Keeps transmitPath State.rxView := by
  intro i s t hi h
  obtain ⟨hrx, hdraws⟩ := (onlyItsOwnPathIsWritten i s t h).2.2.1 hi
  exact Prod.ext hrx hdraws

/-- Two sets of operations commute where each reads only what the other leaves: the first operation leaves all that the
second reads, so the second does the same without it, and likewise the first after the second. -/
theorem exec_comm {α β : Type} {p q : Instr → Bool} {v : State → α} {w : State → β} (hpv : ReadsOnly p v)
    (hqw : ReadsOnly q w) (hpw : Keeps p w) (hqv : Keeps q v) {i j : Instr} {s t u : State} (hi : p i = true)
    (hj : q j = true) (hit : exec i s = .next t) (hju : exec j t = .next u) :
    ∃ t' u', exec j s = .next t' ∧ exec i t' = .next u' ∧ v u' = v u ∧ w u' = w u ∧ u'.agents = u.agents ∧
      t'.out = u.out ∧ u'.out = t.out := by
  obtain ⟨t', hjt', hw, htout, -⟩ := hqw j t s u hj (hpw i s t hi hit).symm hju
  obtain ⟨u', hiu', hv, huout, -⟩ := hpv i s t' t hi (hqv j s t' hj hjt') hit
  refine ⟨t', u', hjt', hiu', hv.trans (hqv j t u hj hju).symm, (hpw i t' u' hi hiu').trans hw, ?_, htout, huout⟩
  rw [exec_agents hiu', exec_agents hjt', exec_agents hju, exec_agents hit]

/-- Settles O44: each path's operations read their own path and leave the other's, in either order. -/
theorem pathsCommute : Obligations.PathsCommute := by
  rintro i j s t u (⟨hi, hj⟩ | ⟨hi, hj⟩) hit hju
  · obtain ⟨t', u', hjt', hiu', hrxView, htxView, hrest⟩ :=
      exec_comm receivePath_readsOnly_rxView transmitPath_readsOnly_txView receivePath_keeps_txView
        transmitPath_keeps_rxView hi hj hit hju
    obtain ⟨hrx, hdraws⟩ := Prod.mk.inj hrxView
    exact ⟨t', u', hjt', hiu', hrx, congrArg Prod.fst htxView, hdraws, hrest⟩
  · obtain ⟨t', u', hjt', hiu', htxView, hrxView, hrest⟩ :=
      exec_comm transmitPath_readsOnly_txView receivePath_readsOnly_rxView transmitPath_keeps_rxView
        receivePath_keeps_txView hi hj hit hju
    obtain ⟨htx, hdraws⟩ := Prod.mk.inj htxView
    exact ⟨t', u', hjt', hiu', congrArg Prod.fst hrxView, htx, hdraws, hrest⟩

/-- A step's output of the receive path: an event. -/
def Out.hasEvent (o : Out) : Bool := decide (o.rxEv ≠ .none)

/-- A step's output of the transmit path: a byte or an error. -/
def Out.hasByteOrError (o : Out) : Bool := o.txByte.isSome || decide (o.txErr ≠ .none)

theorem eventsOf_filter (outs : List Out) : eventsOf (outs.filter Out.hasEvent) = eventsOf outs := by
  simp [eventsOf, List.filter_map, Out.hasEvent, Function.comp_def]

theorem bytesOf_filter (outs : List Out) : bytesOf (outs.filter Out.hasByteOrError) = bytesOf outs := by
  simp only [bytesOf, List.filterMap_filter]
  congr 1
  funext o
  cases hb : o.txByte <;> simp [Out.hasByteOrError, hb]

theorem errorsOf_filter (outs : List Out) : errorsOf (outs.filter Out.hasByteOrError) = errorsOf outs := by
  simp only [errorsOf, List.filter_map, List.filter_filter]
  congr 2
  funext o
  by_cases he : o.txErr = .none <;> simp [Out.hasByteOrError, he]

theorem hasByteOrError_eq_false {i : Instr} {s t : State} (hi : receivePath i = true)
    (h : exec i s = .next t) : t.out.hasByteOrError = false := by
  obtain ⟨ho, -⟩ | ⟨b, e, -, ho⟩ | ⟨p, o, rfl, -⟩ | ⟨c, hc, -⟩ := exec_out_cases h
  · simp [ho, Out.hasByteOrError]
  · simp [ho, Out.hasByteOrError]
  · cases hi
  · simp [receivePath_of_transmitPath (transmitPath_of_commandOf hc)] at hi

theorem hasEvent_eq_false {i : Instr} {s t : State} (hi : transmitPath i = true)
    (h : exec i s = .next t) : t.out.hasEvent = false := by
  obtain ⟨ho, -⟩ | ⟨b, e, rfl, -⟩ | ⟨p, o, -, -, hemit, ho⟩ | ⟨c, -, ho⟩ := exec_out_cases h
  · simp [ho, Out.hasEvent]
  · cases hi
  · obtain ⟨b, rfl⟩ := emit_out hemit
    simp [ho, Out.hasEvent]
  · simp [ho, Out.hasEvent]

theorem stepOuts_congr {t t' : State} (hout : t'.out = t.out) (hhs : t'.handshake = t.handshake) :
    stepOuts t' = stepOuts t := by
  rw [stepOuts, hhs, hout, stepOuts]

theorem filter_stepOuts {seen : Out → Bool} {t : State} (h : seen t.out = false) :
    (stepOuts t).filter seen = [] := by
  unfold stepOuts
  split <;> simp [h]

/-- Where the operations of `path` read only `view`, and the `other` ones neither write it nor output what is `seen`,
a run shows the same `view` and the same `seen` outputs as its operations of `path` alone. -/
theorem observe_filter {α : Type} {path other : Instr → Bool} {view : State → α} {seen : Out → Bool}
    (hreads : ReadsOnly path view) (hkeeps : Keeps other view)
    (hsilent : ∀ {i : Instr} {s t : State}, other i = true → exec i s = .next t → seen t.out = false)
    (hcover : ∀ i, path i = true ∨ other i = true ∨ i = .reset)
    {ops : List Instr} {s s' t : State} {outs : List Out} (hreset : .reset ∉ ops) (hview : view s' = view s)
    (hrun : observe ops s = some (outs, t)) :
    ∃ outs' u, observe (ops.filter path) s' = some (outs', u) ∧ view u = view t ∧
      outs'.filter seen = outs.filter seen := by
  induction ops generalizing s s' outs with
  | nil => cases hrun; exact ⟨[], s', rfl, hview, rfl⟩
  | cons i ops ih =>
    obtain ⟨v, rest, hexec, hrest, rfl⟩ := runBy_cons_some hrun
    obtain ⟨hi, hreset⟩ : .reset ≠ i ∧ .reset ∉ ops := by simpa using hreset
    cases hpath : path i with
    | true =>
      obtain ⟨v', hexec', hview', hout, hhs⟩ := hreads i s s' v hpath hview hexec
      obtain ⟨outs', u, hrun', hu, hseen⟩ := ih hreset hview' hrest
      refine ⟨stepOuts v' ++ outs', u, ?_, hu, by simp [stepOuts_congr hout hhs, hseen]⟩
      rw [List.filter_cons_of_pos hpath, observe, runBy_cons_next hexec', ← observe, hrun']
      rfl
    | false =>
      have hother : other i = true := by simpa [hpath, hi.symm] using hcover i
      obtain ⟨outs', u, hrun', hu, hseen⟩ := ih hreset (hview.trans (hkeeps i s v hother hexec).symm) hrest
      refine ⟨outs', u, by simpa [hpath] using hrun', hu, ?_⟩
      simpa [filter_stepOuts (hsilent hother hexec)] using hseen

/-- Settles O45: each path's operations read and write that path only, and only they give its outputs. -/
theorem pathsRunIndependently : Obligations.PathsRunIndependently := by
  intro ops s t outs hreset hrun
  constructor
  · obtain ⟨outsRx, u, hrun', hview, hseen⟩ :=
      observe_filter receivePath_readsOnly_rxView transmitPath_keeps_rxView hasEvent_eq_false
        receivePath_or_transmitPath_or_reset hreset rfl hrun
    exact ⟨outsRx, u, hrun', congrArg Prod.fst hview, by rw [← eventsOf_filter outsRx, hseen, eventsOf_filter]⟩
  · obtain ⟨outsTx, u, hrun', hview, hseen⟩ :=
      observe_filter transmitPath_readsOnly_txView receivePath_keeps_txView hasByteOrError_eq_false
        (fun i => or_left_comm.1 (receivePath_or_transmitPath_or_reset i)) hreset rfl hrun
    exact ⟨outsTx, u, hrun', congrArg Prod.fst hview, by rw [← bytesOf_filter outsTx, hseen, bytesOf_filter],
      by rw [← errorsOf_filter outsTx, hseen, errorsOf_filter]⟩

end Sys2Proof.Machine
end

section
/-! A started frame on the line (R58, R107): while it is in progress nothing but TX_EMIT and RESET moves the framer. -/

namespace Sys2Proof.Machine

/-- The next TX_EMIT operations put the bytes `bs` on the line, one each. -/
def TxPath.Emits (p : CkParams) (d : Nat) : TxPath → List Byte → Prop
  | _, [] => True
  | t, b :: bs => ∃ q, emit p d t = .done q (emitTx b) ∧ TxPath.Emits p d q bs

theorem stepOuts_length_le (t : State) : (stepOuts t).length ≤ 1 := by
  unfold stepOuts
  split <;> simp

/-- A run has at most one output per operation. -/
theorem runBy_length_le {f : Instr → State → Host.Outcome State Fault Refusal} {ops : List Instr} {s t : State}
    {outs : List Out} (h : runBy f ops s = some (outs, t)) : outs.length ≤ ops.length := by
  induction ops generalizing s outs with
  | nil => cases h; simp
  | cons i ops ih =>
    obtain ⟨v, rest, -, hrest, rfl⟩ := runBy_cons_some h
    have hone := stepOuts_length_le v
    have hrest := ih hrest
    simp only [List.length_append, List.length_cons]
    omega

/-- A run of TX_EMIT with a byte for each of them: none was held. -/
theorem emits_of_observeWith {p : CkParams} {bs : List Byte} {s t : State}
    (h : observeWith p (List.replicate bs.length .txEmit) s = some (bs.map emitTx, t)) :
    s.tx.Emits p s.draws bs := by
  induction bs generalizing s with
  | nil => trivial
  | cons b bs ih =>
    rw [List.length_cons, List.replicate_succ] at h
    obtain ⟨v, rest, hexec, hrest, houts⟩ := runBy_cons_some h
    obtain ⟨q, o, hemit, rfl⟩ | ⟨-, rfl⟩ := commitTx_next hexec
    · obtain ⟨rfl, rfl⟩ : emitTx b = o ∧ bs.map emitTx = rest := by simpa [stepOuts] using houts
      exact ⟨q, hemit, ih hrest⟩
    · obtain rfl : (b :: bs).map emitTx = rest := by simpa [stepOuts] using houts
      simpa using runBy_length_le hrest

section
variable {i : Instr} {s t : State}

/-- While a frame is in progress only TX_EMIT and RESET write the transmit path. -/
theorem exec_tx_of_busy (hbusy : s.tx.phase ≠ .idle) (hemit : i ≠ .txEmit) (hreset : i ≠ .reset)
    (h : exec i s = .next t) : t.tx = s.tx ∧ t.draws = s.draws := by
  obtain ⟨b, r, o, -, -, rfl⟩ | ⟨-, rfl⟩ | ⟨b, p, o, -, hidle, -⟩ | ⟨c, p, o, -, hidle, -⟩ | ⟨-, hidle, -⟩ |
    ⟨p, o, hi, -⟩ | ⟨hi, -⟩ | ⟨-, rfl⟩ := exec_next_cases h
  · exact ⟨rfl, rfl⟩
  · exact ⟨rfl, rfl⟩
  · exact absurd hidle hbusy
  · exact absurd hidle hbusy
  · exact absurd hidle hbusy
  · exact absurd hi hemit
  · exact absurd hi hreset
  · exact ⟨rfl, rfl⟩

/-- Another operation leaves the bytes to come: as long as there are any, a frame is in progress. -/
theorem exec_keeps_emits {p : CkParams} {bs : List Byte} (hemits : s.tx.Emits p s.draws bs) (hemit : i ≠ .txEmit)
    (hreset : i ≠ .reset) (h : exec i s = .next t) : t.tx.Emits p t.draws bs := by
  cases bs with
  | nil => trivial
  | cons b bs =>
    have hbusy : s.tx.phase ≠ .idle := by
      obtain ⟨q, hq, -⟩ := hemits
      intro hidle
      simp [emit, hidle] at hq
    obtain ⟨htx, hdraws⟩ := exec_tx_of_busy hbusy hemit hreset h
    rwa [htx, hdraws]

/-- Only TX_EMIT puts a byte on the line. -/
theorem bytesOf_stepOuts (hemit : i ≠ .txEmit) (h : exec i s = .next t) : bytesOf (stepOuts t) = [] := by
  have hnone : t.out.txByte = none := by simpa [hemit] using (emittedByteIsNamedByPhase i s t h).1
  unfold stepOuts
  split <;> simp [bytesOf, hnone]

end

/-- The bytes on the line are those to come, as many as there are TX_EMIT, whatever comes between. -/
theorem bytesOf_observe_of_emits {ops : List Instr} {bs : List Byte} {s t : State} {outs : List Out}
    (hemits : s.tx.Emits Config.ck s.draws bs) (hreset : .reset ∉ ops) (hcount : ops.count .txEmit ≤ bs.length)
    (hrun : observe ops s = some (outs, t)) : bytesOf outs = bs.take (ops.count .txEmit) := by
  induction ops generalizing s outs bs with
  | nil => cases hrun; rfl
  | cons i ops ih =>
    obtain ⟨v, rest, hexec, hrest, rfl⟩ := runBy_cons_some hrun
    obtain ⟨hi, hops⟩ : .reset ≠ i ∧ .reset ∉ ops := by simpa using hreset
    by_cases hemit : i = .txEmit
    · subst hemit
      rw [List.count_cons_self] at hcount ⊢
      cases bs with
      | nil => simp at hcount
      | cons b bs =>
        obtain ⟨q, hq, hnext⟩ := hemits
        obtain rfl : s.withTx q (emitTx b) = v := by simpa [exec_txEmit, hq, commitTx] using hexec
        have hbytes := ih hnext hops (by simpa using hcount) hrest
        simpa [bytesOf, stepOuts] using hbytes
    · rw [List.count_cons_of_ne hemit] at hcount ⊢
      rw [bytesOf_append, bytesOf_stepOuts hemit hexec, List.nil_append]
      exact ih (exec_keeps_emits hemits hemit hi.symm hexec) hops hcount hrest

/-- Settles O32: alone, L + 5 TX_EMIT emit the frame (`observeWith_emits_frame`), and what comes between changes none
of the bytes to come. -/
theorem frameOnTheLineIsNeverAltered : Obligations.FrameOnTheLineIsNeverAltered := by
  intro s t ops outs wire hstart hinv hreset hcount hwire hrun
  obtain ⟨u, hframe, -⟩ := observeWith_emits_frame s _ wire hstart (hinv.beforePayload (.inl hstart)) rfl hwire
  have hlen : wire.length = s.tx.len.toNat + 5 := by
    obtain ⟨-, rfl⟩ := frameBytes_eq_some hwire
    simp [frameBody, header]
  rw [← hlen] at hframe hcount
  exact bytesOf_observe_of_emits (emits_of_observeWith hframe) hreset hcount hrun

end Sys2Proof.Machine
end

section
/-! Operation words and offers (30_encoding.md R80 to R82): the fields of a word, which words spell an operation, and that
the decoder and the encoder are inverse to each other. -/

namespace Sys2Proof.Machine

-- The fields of a word (R80) -----------------------------------------------------------------------------

theorem opWord_toNat (op : BitVec 4) (data : Byte) : (opWord op data).toNat = op.toNat * 256 + data.toNat := by
  rw [opWord, BitVec.toNat_append, ← Nat.shiftLeft_add_eq_or_of_lt data.isLt, Nat.shiftLeft_eq]

theorem opField_toNat (w : OpWord) : (opField w).toNat = w.toNat / 256 := by
  have hw : w.toNat < 4096 := w.isLt
  rw [opField, BitVec.extractLsb'_toNat, Nat.shiftRight_eq_div_pow]
  omega

theorem dataField_toNat (w : OpWord) : (dataField w).toNat = w.toNat % 256 := by
  simp [dataField]

theorem opField_eq_iff (w : OpWord) (op : BitVec 4) : opField w = op ↔ w.toNat / 256 = op.toNat := by
  rw [← opField_toNat, BitVec.toNat_inj]

theorem dataField_eq_iff (w : OpWord) (data : Byte) : dataField w = data ↔ w.toNat % 256 = data.toNat := by
  rw [← dataField_toNat, BitVec.toNat_inj]

@[simp] theorem opField_opWord (op : BitVec 4) (data : Byte) : opField (opWord op data) = op := by
  have hdata : data.toNat < 256 := data.isLt
  rw [opField_eq_iff, opWord_toNat]
  omega

@[simp] theorem dataField_opWord (op : BitVec 4) (data : Byte) : dataField (opWord op data) = data := by
  have hdata : data.toNat < 256 := data.isLt
  rw [dataField_eq_iff, opWord_toNat]
  omega

/-- A word has no bits but those of OP and DATA. -/
theorem opWord_opField_dataField (w : OpWord) : opWord (opField w) (dataField w) = w := by
  apply BitVec.eq_of_toNat_eq
  rw [opWord_toNat, opField_toNat, dataField_toNat]
  omega

theorem opWord_ofNat (op : BitVec 4) {n : Nat} (h : n ≤ 255) :
    opWord op (BitVec.ofNat 8 n) = BitVec.ofNat 12 (op.toNat * 256 + n) := by
  have hop : op.toNat < 16 := op.isLt
  apply BitVec.eq_of_toNat_eq
  rw [opWord_toNat, BitVec.toNat_ofNat, BitVec.toNat_ofNat]
  omega

-- The decoder and the encoder (R73, R81, R82) ------------------------------------------------------------

/-- Settles O1: the fields of `opWord op data` are `op` and `data`, and `decodeCommand` finds each code of R73. -/
theorem encodeDecodeRoundTrip : Obligations.EncodeDecodeRoundTrip := by
  intro i _
  cases i with
  | rxByte b | txPush b | txSend b => simp [encode, decode, decodeWord]
  | rxFlush | txClear | txEmit | reset => rfl
  | setDrive | getDrives | encodeEvent | getTrust | getPersonality | resetPersonality | ping => rfl

/-- An operation without operand is decoded from the DATA 0x00 of its encoding only. -/
theorem encode_of_decodePlain {op : BitVec 4} {data : Byte} {i j : Instr}
    (hencode : encode i = .word (opWord op 0x00#8)) (h : decodePlain op data i = .ok j) :
    encode j = .word (opWord op data) := by
  unfold decodePlain at h
  split at h
  · next hdata => cases h; rw [hencode, hdata]
  · cases h

/-- What a word decodes to is encoded by the word's own OP and DATA. -/
theorem encode_of_decodeWord {w : OpWord} {i : Instr} (h : decodeWord w = .ok i) :
    encode i = .word (opWord (opField w) (dataField w)) := by
  simp only [decodeWord] at h
  split_ifs at h with h1 h2 h3 h4 h5 h6 h7
  · cases h; rw [h1, encode]
  · exact encode_of_decodePlain (by rw [h2, encode]) h
  · cases h; rw [h3, encode]
  · cases h; rw [h4, encode]
  · exact encode_of_decodePlain (by rw [h5, encode]) h
  · exact encode_of_decodePlain (by rw [h6, encode]) h
  · exact encode_of_decodePlain (by rw [h7, encode]) h

/-- Settles O2: the word is its OP and its DATA, and the encoding has both. -/
theorem decodedWordReencodes : Obligations.DecodedWordReencodes := by
  intro w i h
  rw [encode_of_decodeWord h, opWord_opField_dataField]

section
variable {w : OpWord}

theorem decodeWord_of_reservedOp (hop : w.toNat / 256 = 0 ∨ 8 ≤ w.toNat / 256) :
    decodeWord w = .error (.reservedOp (opField w)) := by
  have hne (k : Nat) (hpos : 1 ≤ k) (hlt : k < 8) : w.toNat / 256 ≠ k := by omega
  simp [decodeWord, opField_eq_iff, hne]

theorem decodeWord_of_reservedData
    (hop : w.toNat / 256 = 2 ∨ w.toNat / 256 = 5 ∨ w.toNat / 256 = 6 ∨ w.toNat / 256 = 7)
    (hdata : w.toNat % 256 ≠ 0) : decodeWord w = .error (.reservedData (opField w) (dataField w)) := by
  rcases hop with hop | hop | hop | hop <;>
    simp [decodeWord, decodePlain, opField_eq_iff, dataField_eq_iff, hop, hdata]

theorem decodeWord_of_operand (hop : w.toNat / 256 = 1 ∨ w.toNat / 256 = 3 ∨ w.toNat / 256 = 4) :
    ∃ i, decodeWord w = .ok i := by
  rcases hop with hop | hop | hop <;> simp [decodeWord, opField_eq_iff, hop]

theorem decodeWord_of_noOperand
    (hop : w.toNat / 256 = 2 ∨ w.toNat / 256 = 5 ∨ w.toNat / 256 = 6 ∨ w.toNat / 256 = 7)
    (hdata : w.toNat % 256 = 0) : ∃ i, decodeWord w = .ok i := by
  rcases hop with hop | hop | hop | hop <;>
    simp [decodeWord, decodePlain, opField_eq_iff, dataField_eq_iff, hop, hdata]

end

/-- Settles O3: the decoder's answer to a word by its OP and DATA, which a step turns into its refusal. -/
theorem reservedWordsRefused : Obligations.ReservedWordsRefused := by
  refine fun w => ⟨fun hop s a ts os hturns hpending => ?_, fun hres s a ts os hturns hpending => ?_,
    fun hop hres => ?_⟩
  · exact step_of_decode_error hturns hpending (decodeWord_of_reservedOp hop)
  · exact step_of_decode_error hturns hpending (decodeWord_of_reservedData hres.1 hres.2)
  · by_cases hoperand : w.toNat / 256 = 1 ∨ w.toNat / 256 = 3 ∨ w.toNat / 256 = 4
    · exact decodeWord_of_operand hoperand
    · exact decodeWord_of_noOperand (by omega) (by omega)

/-- Settles O4: the decoder evaluated on the listed words and codes. -/
theorem sampleWordsDecode : Obligations.SampleWordsDecode := by
  unfold Obligations.SampleWordsDecode
  decide

-- Command bytes (R72, R73) -------------------------------------------------------------------------------

/-- A COMMAND byte decodes to an instruction that sends it. -/
theorem commandOf_decodeCommand (c : Byte) : commandOf (decodeCommand c) = some c := by
  unfold decodeCommand
  split_ifs with h h h h h h h
  case neg => rfl
  all_goals rw [h]; rfl

/-- Settles O5: the instruction sends the byte, and two operations that send one byte are one. -/
theorem everyCommandByteSendsAlike : Obligations.EveryCommandByteSendsAlike :=
  fun c => ⟨decodeCommand c, rfl, exec_of_commandOf (commandOf_decodeCommand c)⟩

section
variable {s : State}

theorem sendCommand_starts (c : Byte) (hidle : s.tx.phase = .idle) (hovf : s.tx.ovf = false) :
    sendCommand c s =
      .next (s.withTx { s.tx with cmd := c, idx := 0x0000#16, phase := .start } Out.quiet) := by
  simp [sendCommand, whenIdle_idle hidle, sendFrame, hovf, commitTx]

theorem sendCommand_fails (c : Byte) (hidle : s.tx.phase = .idle) (hovf : s.tx.ovf = true) :
    sendCommand c s = .next (s.withTx { s.tx with len := 0x0000#16, ovf := false } raisePayloadTooLarge) := by
  simp [sendCommand, whenIdle_idle hidle, sendFrame, hovf, commitTx]

theorem sendCommand_holds (c : Byte) (hbusy : s.tx.phase ≠ .idle) : sendCommand c s = .next s.hold := by
  simp [sendCommand, whenIdle_busy hbusy, commitTx]

end

/-- Settles O34: each name carries its code, and is the TX_SEND of it. -/
theorem commandNamesStartFrames : Obligations.CommandNamesStartFrames := by
  intro s i c hmem
  have hcode : commandOf i = some c := by
    simp only [List.mem_cons, Prod.mk.injEq, List.not_mem_nil, or_false] at hmem
    rcases hmem with ⟨rfl, rfl⟩ | ⟨rfl, rfl⟩ | ⟨rfl, rfl⟩ | ⟨rfl, rfl⟩ | ⟨rfl, rfl⟩ | ⟨rfl, rfl⟩ | ⟨rfl, rfl⟩ <;> rfl
  rw [exec_of_commandOf hcode]
  exact ⟨hcode, sendCommand_starts c, sendCommand_fails c, sendCommand_holds c⟩

end Sys2Proof.Machine
end

section
/-! The wire frame (30_encoding.md R70, R79): when there is one, and each of its fields at its offset. -/

namespace Sys2Proof.Machine

theorem frameBytes_eq_none {p : CkParams} {c : Byte} {payload : List Byte} :
    frameBytes p c payload = none ↔ 65535 < payload.length := by
  simp [frameBytes]

theorem hiByte_toNat_loByte_toNat (n : U16) : (hiByte n).toNat * 256 + (loByte n).toNat = n.toNat := by
  have hn : n.toNat < 65536 := n.isLt
  simp only [hiByte, loByte, BitVec.extractLsb'_toNat, Nat.shiftRight_eq_div_pow]
  omega

/-- Settles O57: a frame is START, the three header bytes, the payload and the checksum, one after another, and the
halves of LENGTH are those of a number below 65536. -/
theorem wireFrameLayout : Obligations.WireFrameLayout := by
  refine fun p c payload => ⟨frameBytes_eq_none.symm, fun wire h => ?_⟩
  obtain ⟨hlen, rfl⟩ := frameBytes_eq_some h
  have hn : (BitVec.ofNat 16 payload.length).toNat = payload.length := by
    rw [BitVec.toNat_ofNat]; omega
  refine ⟨?_, rfl, ⟨_, _, rfl, rfl, ?_, ?_⟩, rfl, ?_⟩
  · simp [frameBody, header]
  · rw [hiByte_toNat_loByte_toNat, hn]
  · simp [frameBody, header]
  · simp [frameBody, header]

end Sys2Proof.Machine
end

section
/-! Assembler lines (30_encoding.md R83) and pseudo-operations (R84). -/

namespace Sys2Proof.Machine

-- Numbers as text ----------------------------------------------------------------------------------------

theorem readDigits_append (base : Nat) (xs ys : List Char) (acc : Nat) :
    readDigits base acc (xs ++ ys) = (readDigits base acc xs).bind (readDigits base · ys) := by
  induction xs generalizing acc with
  | nil => rfl
  | cons x xs ih =>
    simp only [List.cons_append, readDigits]
    split
    · split
      · exact ih _
      · rfl
    · rfl

/-- The digits of a number, each spelled by a character of its value, read as the number. -/
theorem readDigits_map_toDigits {base : Nat} {spelling : Char → Char} (hbase : 1 < base)
    (hdigit : ∀ d < base, digitValue (spelling d.digitChar) = some d) (n : Nat) :
    readDigits base 0 ((Nat.toDigits base n).map spelling) = some n := by
  induction n using Nat.strongRecOn with
  | ind n ih =>
    rw [Nat.toDigits_eq_if hbase]
    split
    · next hlt => simp [readDigits, hdigit n hlt, hlt]
    · next hge =>
      have hmod : n % base < base := Nat.mod_lt n (by omega)
      have hdiv : n / base < n := Nat.div_lt_self (by omega) hbase
      rw [List.map_append, readDigits_append, ih _ hdiv]
      simp [readDigits, hdigit _ hmod, hmod, Nat.div_add_mod']

theorem digitValue_digitChar : ∀ d < 16, digitValue d.digitChar = some d := by decide

theorem digitValue_toUpper_digitChar : ∀ d < 16, digitValue d.digitChar.toUpper = some d := by decide

theorem readNumber_decimal {cs : List Char} (hne : cs ≠ []) (hx : 'x' ∉ cs) :
    readNumber cs = readDigits 10 0 cs := by
  unfold readNumber
  split
  · contradiction
  · simp at hx
  · rfl

theorem readNumber_hexadecimal {cs : List Char} (hne : cs ≠ []) :
    readNumber ('0' :: 'x' :: cs) = readDigits 16 0 cs := by
  cases cs with
  | nil => contradiction
  | cons d ds => rfl

theorem readNumber_toDigits_ten (n : Nat) : readNumber (Nat.toDigits 10 n) = some n := by
  have hx : 'x' ∉ Nat.toDigits 10 n := fun h => absurd (Nat.isDigit_of_mem_toDigits (by omega) le_rfl h) (by decide)
  rw [readNumber_decimal Nat.toDigits_ne_nil hx, ← List.map_id (Nat.toDigits 10 n)]
  exact readDigits_map_toDigits (by omega) (fun d hd => digitValue_digitChar d (by omega)) n

theorem readNumber_toDigits_sixteen {spelling : Char → Char}
    (hdigit : ∀ d < 16, digitValue (spelling d.digitChar) = some d) (n : Nat) :
    readNumber ('0' :: 'x' :: (Nat.toDigits 16 n).map spelling) = some n := by
  rw [readNumber_hexadecimal (by simp [Nat.toDigits_ne_nil])]
  exact readDigits_map_toDigits (by omega) hdigit n

-- Lines --------------------------------------------------------------------------------------------------

section
variable {m : Mnemonic} {n : Nat} (hm : m = .RX_BYTE ∨ m = .TX_PUSH ∨ m = .TX_SEND)
include hm

theorem operandByte_number (n : Nat) : operandByte ⟨m, some (.number n)⟩ = numberByte n := by
  rcases hm with rfl | rfl | rfl <;> rfl

theorem assemble_number (h : n ≤ 255) :
    assemble ⟨m, some (.number n)⟩ = some (BitVec.ofNat 12 ((mnemonicOp m).toNat * 256 + n)) := by
  rw [assemble, operandByte_number hm, numberByte, if_pos h, Option.map_some, opWord_ofNat _ h]

theorem assemble_number_too_large (h : 255 < n) : assemble ⟨m, some (.number n)⟩ = none := by
  rw [assemble, operandByte_number hm, numberByte, if_neg (by omega), Option.map_none]

end

/-- An assembled word is the encoding of an operation. -/
theorem assemble_eq_some {l : AsmLine} {w : OpWord} (h : assemble l = some w) : ∃ i, encode i = .word w := by
  obtain ⟨data, hdata, rfl⟩ := Option.map_eq_some_iff.1 h
  unfold operandByte at hdata
  split at hdata
  · exact ⟨.rxByte data, rfl⟩
  · exact ⟨.txPush data, rfl⟩
  · exact ⟨.txSend data, rfl⟩
  · exact ⟨.txSend data, rfl⟩
  · cases hdata; exact ⟨.rxFlush, rfl⟩
  · cases hdata; exact ⟨.txClear, rfl⟩
  · cases hdata; exact ⟨.txEmit, rfl⟩
  · cases hdata; exact ⟨.reset, rfl⟩
  · cases hdata

theorem wellFormed_eq_true (i : Instr) : i.wellFormed = true := by cases i <;> rfl

theorem decode_of_assemble {l : AsmLine} {w : OpWord} (h : assemble l = some w) : ∃ i, decode (.word w) = .ok i := by
  obtain ⟨i, hi⟩ := assemble_eq_some h
  exact ⟨i, hi ▸ encodeDecodeRoundTrip i (wellFormed_eq_true i)⟩

theorem readLine_comment {line comment : List Char} (h : ';' ∉ line) :
    readLine (line ++ ';' :: comment) = readLine line := by
  have hkept : ∀ c ∈ line, (c != ';') = true := fun c hc => by
    simpa using fun he : c = ';' => h (he ▸ hc)
  have hcut : withoutComment (line ++ ';' :: comment) = withoutComment line := by
    simp [withoutComment, List.takeWhile_append_of_pos hkept, List.takeWhile_eq_self_iff.2 hkept]
  rw [readLine, hcut, readLine]

/-- Settles O58: numbers read back from their spellings in either base, a line assembles to the encoding of an operation,
and the rows of R73 and R81 are evaluated one by one. -/
theorem assemblerLines : Obligations.AssemblerLines := by
  refine ⟨fun n => ⟨fun h => ?_, fun h => ?_⟩, ⟨rfl, rfl, rfl, rfl, fun o => ⟨rfl, rfl, rfl, rfl⟩⟩,
    ⟨rfl, rfl, rfl⟩, ⟨rfl, rfl, rfl, rfl, rfl, rfl, rfl⟩, fun c => ⟨?_, rfl, rfl⟩, fun l w => decode_of_assemble,
    fun line comment => readLine_comment, ?_⟩
  · refine ⟨assemble_number (.inl rfl) h, assemble_number (.inr (.inl rfl)) h, assemble_number (.inr (.inr rfl)) h,
      readNumber_toDigits_ten n, ?_, readNumber_toDigits_sixteen digitValue_toUpper_digitChar n⟩
    simpa using readNumber_toDigits_sixteen (spelling := id) digitValue_digitChar n
  · exact ⟨assemble_number_too_large (.inl rfl) h, assemble_number_too_large (.inr (.inl rfl)) h,
      assemble_number_too_large (.inr (.inr rfl)) h⟩
  · cases c <;> rfl
  · decide

/-- Settles O59: each clause is the equation of `expand` for its row. -/
theorem pseudoOperations : Obligations.PseudoOperations :=
  fun _ _ _ _ _ _ _ => ⟨rfl, rfl, rfl, rfl, fun h => by rw [expand, h]; rfl⟩

end Sys2Proof.Machine
end

section
/-! The framer's operations (40_framer_tx.md R101 to R104), one equation each, and its two runs: a payload the buffer can
hold puts its frame on the line (R105), a longer one nothing (R106). -/

namespace Sys2Proof.Machine

section
variable {p : CkParams} {s : State} {t : TxPath}

/-- A producer's operation has no step while a frame is in progress (R185). -/
theorem commitTx_whenIdle_busy (hbusy : s.tx.phase ≠ .idle) (perform : TxPath → PathResult TxPath) :
    commitTx s (whenIdle s.tx perform) = .next s.hold := by
  rw [whenIdle_busy hbusy, commitTx]

theorem exec_txPush (b : Byte) (s : State) :
    exec (.txPush b) s = commitTx s (whenIdle s.tx (pushByte b)) := rfl

theorem pushByte_eq (b : Byte) (t : TxPath) :
    pushByte b t = .done (if t.len = 0xFFFF#16 then { t with ovf := true } else t.pushed b) Out.quiet := by
  by_cases hfull : t.len = 0xFFFF#16 <;> simp [pushByte, TxPath.full, hfull, TxPath.pushed]

/-- Settles O25: `pushByte_eq` where the framer is Idle. -/
theorem txPushAppends : Obligations.TxPushAppends := by
  refine fun s b => ⟨encodeDecodeRoundTrip (.txPush b) rfl, fun hbusy => commitTx_whenIdle_busy hbusy _,
    fun hidle => ?_, toNat_add_one⟩
  rw [exec_txPush, whenIdle_idle hidle, pushByte_eq]
  rfl

/-- Settles O26: TX_SEND is `sendCommand`, which starts, fails or holds. -/
theorem txSendStartsOrFails : Obligations.TxSendStartsOrFails := fun _ c =>
  ⟨encodeDecodeRoundTrip (.txSend c) rfl, sendCommand_holds c, sendCommand_fails c, sendCommand_starts c⟩

/-- Settles O27: `clearPayload` where the framer is Idle. -/
theorem txClearDiscards : Obligations.TxClearDiscards := by
  refine ⟨encodeDecodeRoundTrip .txClear rfl, fun s => ⟨fun hbusy => commitTx_whenIdle_busy hbusy _, fun hidle => ?_⟩⟩
  rw [exec_txClear, whenIdle_idle hidle]
  rfl

theorem emit_start {d : Nat} (hp : t.phase = .start) : emit p d t = emitStart p t := by
  simp only [emit, hp]

theorem emit_lenHi {d : Nat} (hp : t.phase = .lenHi) : emit p d t = emitCovered p (hiByte t.len) .lenLo t := by
  simp only [emit, hp]

theorem emit_lenLo {d : Nat} (hp : t.phase = .lenLo) : emit p d t = emitCovered p (loByte t.len) .cmd t := by
  simp only [emit, hp]

theorem emit_cmd {d : Nat} (hp : t.phase = .cmd) : emit p d t = emitCmd p t := by
  simp only [emit, hp]

theorem exec_txEmit_of_done {o : Out} (h : emit Config.ck s.draws s.tx = .done t o) :
    exec .txEmit s = .next (s.withTx t o) := by
  rw [exec_txEmit, h, commitTx]

theorem exec_txEmit_of_idle (hidle : s.tx.phase = .idle) : exec .txEmit s = .next s.hold := by
  simp only [exec_txEmit, emit, hidle, commitTx]

/-- Settles O28: `emit` by the phase of the framer. -/
theorem txEmitByPhase : Obligations.TxEmitByPhase :=
  ⟨encodeDecodeRoundTrip .txEmit rfl, fun _ => ⟨exec_txEmit_of_idle,
    fun hp => exec_txEmit_of_done (emit_start hp),
    fun hp => exec_txEmit_of_done (emit_lenHi hp),
    fun hp => exec_txEmit_of_done (emit_lenLo hp),
    fun hp => exec_txEmit_of_done (emit_cmd hp),
    fun hp hidx => exec_txEmit_of_done (emit_payload hp hidx),
    fun hp => exec_txEmit_of_done (emit_ck hp)⟩⟩

/-- Settles O30: the run of `observeWith_encode` at the block's own checksum parameters. -/
theorem framerRealisesEncode : Obligations.FramerRealisesEncode := by
  intro s c payload wire hidle hlen hovf hwire
  rw [observe_eq_observeWith]
  exact observeWith_encode c payload wire s hidle hlen hovf hwire

theorem execWith_txPush_full (b : Byte) (hidle : s.tx.phase = .idle) (hfull : s.tx.len = 0xFFFF#16) :
    execWith p (.txPush b) s = .next (s.withTx { s.tx with ovf := true } Out.quiet) := by
  simp only [execWith, execTxPush, whenIdle_idle hidle, pushByte_eq, if_pos hfull, commitTx]

/-- Pushes onto a full buffer: every byte is dropped, and the first sets tx_ovf (R101). -/
theorem observeWith_pushes_full (ys : List Byte) (s : State) (hidle : s.tx.phase = .idle)
    (hfull : s.tx.len = 0xFFFF#16) :
    ∃ t, observeWith p (ys.map .txPush) s = some (List.replicate ys.length Out.quiet, t) ∧
      t.tx = { s.tx with ovf := s.tx.ovf || !ys.isEmpty } := by
  induction ys generalizing s with
  | nil => exact ⟨s, rfl, by simp⟩
  | cons y ys ih =>
    obtain ⟨t, hrun, htx⟩ := ih (s.withTx { s.tx with ovf := true } Out.quiet) hidle hfull
    exact ⟨t, observeWith_cons_performed (execWith_txPush_full y hidle hfull) rfl hrun, by simp [htx]⟩

/-- Pushes of more bytes than the buffer holds: it is full and tx_ovf is set (R101). -/
theorem observeWith_pushes_oversize (payload : List Byte) (s : State) (hidle : s.tx.phase = .idle)
    (hlen : s.tx.len = 0x0000#16) (hover : 65536 ≤ payload.length) :
    ∃ t, observeWith p (payload.map .txPush) s = some (List.replicate payload.length Out.quiet, t) ∧
      t.tx.phase = .idle ∧ t.tx.ovf = true := by
  have hstored : (payload.take 65535).length = 65535 := List.length_take_of_le (by omega)
  have hdropped : (payload.drop 65535).isEmpty = false := by
    rw [List.isEmpty_eq_false_iff, ← List.length_pos_iff, List.length_drop]
    omega
  obtain ⟨t, hstore, -, -, httx⟩ := observeWith_pushes (p := p) (payload.take 65535) s hidle (by simp [hlen, hstored])
  rw [hlen, hstored] at httx
  obtain ⟨u, hdrop, hutx⟩ := observeWith_pushes_full (p := p) (payload.drop 65535) t (by rw [httx]; exact hidle)
    (by rw [httx]; rfl)
  refine ⟨u, ?_, by rw [hutx, httx]; exact hidle, by rw [hutx, hdropped]; simp⟩
  have hrun := observeWith_append hstore hdrop
  rwa [← List.map_append, List.replicate_append_replicate, ← List.length_append, List.take_append_drop] at hrun

/-- In Idle no TX_EMIT has a step (R104). -/
theorem observe_emits_of_idle (n : Nat) (s : State) (hidle : s.tx.phase = .idle) :
    ∃ u, observe (List.replicate n .txEmit) s = some ([], u) ∧ u.tx = s.tx := by
  induction n generalizing s with
  | zero => exact ⟨s, rfl, rfl⟩
  | succ n ih =>
    obtain ⟨u, hrun, hutx⟩ := ih s.hold hidle
    refine ⟨u, ?_, hutx⟩
    rw [List.replicate_succ, observe, runBy_cons_next (exec_txEmit_of_idle hidle), ← observe, hrun]
    rfl

/-- Settles O31: the pushes set tx_ovf, so TX_SEND fails and leaves Idle. -/
theorem oversizeEmitsNothing : Obligations.OversizeEmitsNothing := by
  intro s c payload hidle hlen hovf hover
  obtain ⟨t, hpush, htidle, htovf⟩ := observeWith_pushes_oversize (p := Config.ck) payload s hidle hlen hover
  have hsend : execWith Config.ck (.txSend c) t =
      .next (t.withTx { t.tx with len := 0x0000#16, ovf := false } raisePayloadTooLarge) :=
    sendCommand_fails c htidle htovf
  have hrun := observeWith_append hpush (observeWith_cons_performed hsend rfl observeWith_nil)
  rw [← observe_eq_observeWith] at hrun
  exact ⟨_, hrun, htidle, rfl, rfl, fun n => observe_emits_of_idle n _ htidle⟩

end

end Sys2Proof.Machine
end

section
/-! What an operation stores to the two buffers (R101, R135), and that it leaves every other byte. -/

namespace Sys2Proof.Machine

section
variable {i : Instr} {s t : State}

/-- Only RESET draws the buffers anew (R210). -/
theorem exec_draws (hreset : i ≠ .reset) (h : exec i s = .next t) : t.draws = s.draws := by
  obtain ⟨-, hrx, htx, -⟩ := onlyItsOwnPathIsWritten i s t h
  obtain hi | hi | hi := receivePath_or_transmitPath_or_reset i
  · exact (hrx hi).2
  · exact (htx hi).2
  · exact absurd hi hreset

/-- RX_BYTE stores its byte in ReadPayload and nowhere else. -/
theorem feed_buf_cases {p : CkParams} {d : Nat} {b : Byte} {r q : RxPath} {o : Out} (h : feed p d b r = .done q o) :
    (r.state = .readPayload ∧ q.buf = Memory.write r.buf r.index.toNat b) ∨
    (r.state ≠ .readPayload ∧ q.buf = r.buf) := by
  obtain ⟨hs, -, rfl⟩ | ⟨hs, -, rfl⟩ | ⟨hs, -, rfl⟩ | ⟨hs, -, rfl⟩ | ⟨hs, -, -, rfl⟩ | ⟨hs, -, rfl⟩ := feed_done h
  case inr.inr.inr.inr.inl => exact .inl ⟨hs, rfl⟩
  case inl => exact .inr ⟨by simp [hs], rxAwaitStart_buf ..⟩
  all_goals exact .inr ⟨by simp [hs], rfl⟩

/-- What an operation does to RXB: an RX_BYTE in ReadPayload stores its byte, and any other leaves it. -/
theorem exec_rxb_cases (hreset : i ≠ .reset) (h : exec i s = .next t) :
    (∃ b, i = .rxByte b ∧ s.rx.state = .readPayload ∧ t.rx.buf = Memory.write s.rx.buf s.rx.index.toNat b) ∨
    ((∀ b, i = .rxByte b → s.rx.state ≠ .readPayload) ∧ t.rx.buf = s.rx.buf) := by
  obtain ⟨b, r, o, rfl, hfeed, rfl⟩ | ⟨rfl, rfl⟩ | ⟨b, p, o, rfl, -, -, rfl⟩ | ⟨c, p, o, hc, -, -, rfl⟩ |
    ⟨rfl, -, rfl⟩ | ⟨p, o, rfl, -, -, rfl⟩ | ⟨hi, -⟩ | ⟨hheld, rfl⟩ := exec_next_cases h
  · obtain ⟨hs, hbuf⟩ | ⟨hs, hbuf⟩ := feed_buf_cases hfeed
    · exact .inl ⟨b, rfl, hs, hbuf⟩
    · exact .inr ⟨fun _ _ => hs, hbuf⟩
  · exact .inr ⟨nofun, rfl⟩
  · exact .inr ⟨nofun, rfl⟩
  · exact .inr ⟨fun b hi => by simp [hi, commandOf] at hc, rfl⟩
  · exact .inr ⟨nofun, rfl⟩
  · exact .inr ⟨nofun, rfl⟩
  · exact absurd hi hreset
  · exact .inr ⟨fun b hi => by simp [hi, enabled] at hheld, rfl⟩

/-- What an operation does to TXB: a TX_PUSH in Idle with room stores its byte, and any other leaves it. -/
theorem exec_txb_cases (hreset : i ≠ .reset) (h : exec i s = .next t) :
    (∃ b, i = .txPush b ∧ s.tx.phase = .idle ∧ s.tx.len ≠ 0xFFFF#16 ∧
      t.tx.buf = Memory.write s.tx.buf s.tx.len.toNat b) ∨
    ((∀ b, i = .txPush b → s.tx.phase = .idle → s.tx.len = 0xFFFF#16) ∧ t.tx.buf = s.tx.buf) := by
  obtain ⟨b, r, o, rfl, -, rfl⟩ | ⟨rfl, rfl⟩ | ⟨b, p, o, rfl, hidle, hpush, rfl⟩ | ⟨c, p, o, hc, -, hsend, rfl⟩ |
    ⟨rfl, -, rfl⟩ | ⟨p, o, rfl, -, hemit, rfl⟩ | ⟨hi, -⟩ | ⟨hheld, rfl⟩ := exec_next_cases h
  · exact .inr ⟨nofun, rfl⟩
  · exact .inr ⟨nofun, rfl⟩
  · obtain ⟨-, ⟨hfull, rfl⟩ | ⟨hroom, rfl⟩⟩ := pushByte_done hpush
    · exact .inr ⟨fun _ _ _ => hfull, rfl⟩
    · exact .inl ⟨b, rfl, hidle, hroom, rfl⟩
  · exact .inr ⟨fun b hi => by simp [hi, commandOf] at hc, sendFrame_buf hsend⟩
  · exact .inr ⟨nofun, rfl⟩
  · exact .inr ⟨nofun, emit_buf hemit⟩
  · exact absurd hi hreset
  · refine .inr ⟨?_, rfl⟩
    rintro b rfl hidle
    simp [enabled, txBusy, TxPath.busy, hidle] at hheld

end

/-- Settles O43: an operation stores one byte to one buffer or none (`exec_rxb_cases`, `exec_txb_cases`), and a write
changes one byte. -/
theorem bufferBytesFrame : Obligations.BufferBytesFrame := by
  intro i s t h hreset
  rw [exec_draws hreset h]
  refine ⟨fun a ha => ?_, fun a ha => ?_, ?_, ?_⟩
  · obtain ⟨b, hi, hs, hbuf⟩ | ⟨-, hbuf⟩ := exec_rxb_cases hreset h
    · rw [hbuf, memRead_write_other]
      exact fun heq => ha ⟨⟨b, hi⟩, hs, heq⟩
    · rw [hbuf]
  · obtain ⟨b, hi, hidle, hroom, hbuf⟩ | ⟨-, hbuf⟩ := exec_txb_cases hreset h
    · rw [hbuf, memRead_write_other]
      exact fun heq => ha ⟨⟨b, hi⟩, hidle, hroom, heq⟩
    · rw [hbuf]
  · rintro b rfl hs
    obtain ⟨b', hi, -, hbuf⟩ | ⟨hno, -⟩ := exec_rxb_cases hreset h
    · cases hi
      rw [hbuf]
      exact memRead_write_same ..
    · exact absurd hs (hno b rfl)
  · rintro b rfl hidle hroom
    obtain ⟨b', hi, -, -, hbuf⟩ | ⟨hno, -⟩ := exec_txb_cases hreset h
    · cases hi
      rw [hbuf, memRead_write_same]
    · exact absurd (hno b rfl hidle) hroom

end Sys2Proof.Machine
end

section
/-! RX_BYTE by parser state and RX_FLUSH (R130 to R139): the equation of each arm, and the one arm that delivers a
frame. -/

namespace Sys2Proof.Machine

section
variable {p : CkParams} {d : Nat} {b : Byte} {r q : RxPath} {o : Out} {s t : State}

theorem feed_readLenHi (hs : r.state = .readLenHi) : feed p d b r = .done (rxReadLenHi p b r) Out.quiet := by
  simp [feed, hs]

theorem feed_readLenLo (hs : r.state = .readLenLo) : feed p d b r = .done (rxReadLenLo p b r) Out.quiet := by
  simp [feed, hs]

theorem feed_readCmd (hs : r.state = .readCmd) : feed p d b r = .done (rxReadCmd p b r) Out.quiet := by
  simp [feed, hs]

theorem exec_rxByte_of_done (h : feed Config.ck s.draws b s.rx = .done r o) :
    exec (.rxByte b) s = .next (s.withRx r o) := by
  rw [exec_rxByte, h, commitRx]

theorem exec_rxFlush (s : State) :
    exec .rxFlush s = .next (s.withRx { s.rx with state := .awaitStart } Out.quiet) := rfl

theorem hiByte_append (hi lo : Byte) : hiByte (hi ++ lo) = hi := BitVec.extractLsb'_append_eq_left

theorem loByte_append (hi lo : Byte) : loByte (hi ++ lo) = lo := BitVec.extractLsb'_append_eq_right

/-- LENGTH is big-endian: its upper half first, then its lower (R133). -/
theorem lenWithLo_lenFromHi_eq_append (hi lo : Byte) : lenWithLo (lenFromHi hi) lo = hi ++ lo := by
  have h := lenWithLo_lenFromHi (hi ++ lo)
  rwa [hiByte_append, loByte_append] at h

theorem lenFromHi_eq_append (b : Byte) : lenFromHi b = b ++ 0x00#8 := by
  rw [← lenWithLo_lenFromHi_eq_append]
  simp [lenWithLo, zext16]

/-- Settles O10: the arm writes the path and the outputs the statement writes out. -/
theorem rxAwaitStartArm : Obligations.RxAwaitStartArm := fun _ _ hs =>
  exec_rxByte_of_done (feed_awaitStart hs)

/-- Settles O11: the shifted byte is the byte with eight zero bits appended. -/
theorem rxReadLenHiArm : Obligations.RxReadLenHiArm := by
  intro s b hs
  rw [← lenFromHi_eq_append]
  exact exec_rxByte_of_done (feed_readLenHi hs)

/-- Settles O12: the arm, and after ReadLenHi its OR puts the two bytes side by side. -/
theorem rxReadLenLoArm : Obligations.RxReadLenLoArm := by
  refine ⟨fun s b hs => exec_rxByte_of_done (feed_readLenLo hs), fun s hi lo hs => ?_⟩
  have hlen := lenWithLo_lenFromHi_eq_append hi lo
  exact ⟨_, _, exec_rxByte_of_done (feed_readLenHi hs), exec_rxByte_of_done (feed_readLenLo rfl), hlen, hlen, rfl⟩

/-- Settles O13: the arm, whose new state depends on rx_len alone. -/
theorem rxReadCmdArm : Obligations.RxReadCmdArm := fun _ _ hs =>
  exec_rxByte_of_done (feed_readCmd hs)

/-- Settles O14: one byte by the arm, and a whole payload by the run from the first byte to the last
(`observeRxWith_payload`). -/
theorem rxReadPayloadArm : Obligations.RxReadPayloadArm := by
  refine ⟨fun s b hs hidx => exec_rxByte_of_done (feed_readPayload hs hidx), ?_⟩
  intro s payload hs hrem hlen hne
  have hpos : s.rx.rem ≠ 0x0000#16 := by
    intro hzero
    rw [← hrem, hzero] at hlen
    exact hne (List.length_eq_zero_iff.1 hlen)
  obtain ⟨t, hrun, -, -, hrx⟩ := observeRxWith_payload (p := Config.ck) payload s
    (by rw [hrem, hlen]) (by rw [hrem]) (by rw [if_neg hpos, hs])
  refine ⟨t, (observe_rxBytes payload s).trans hrun, ?_⟩
  rw [hrx]
  refine ⟨rfl, rfl, rfl, rfl, ?_, rfl⟩
  have hstored := memReadTo_writeFrom t.draws .rxb payload s.rx.buf 0
  rwa [Nat.zero_add, memReadTo_zero, List.nil_append, hlen, ← RxPath.received_eq_zero hrem] at hstored

/-- In ReadChecksum the whole payload is received, so rx_acc has folded in every covered byte (R136, R166). -/
theorem ckFinal_acc_of_readChecksum (hinv : RxInv r) (hck : RxChecksum p d r) (hs : r.state = .readChecksum) :
    ckFinal p r.acc = checksum p (header r.len r.cmd ++ memReadTo d .rxb r.buf r.len.toNat) := by
  have hreceived : r.received = r.len.toNat := by simp [RxPath.received, hinv.readChecksum hs]
  rw [hck.payload (.inr hs), hreceived, checksum]

/-- Settles O15: the arm, and that under the invariant rx_acc is the fold over the whole frame. -/
theorem rxReadChecksumArm : Obligations.RxReadChecksumArm := by
  refine fun s b hs => ⟨exec_rxByte_of_done (feed_readChecksum hs), fun hinv => ?_⟩
  rw [ckFinal_acc_of_readChecksum hinv.rx hinv.rxChecksum hs]
  rfl

/-- Settles O16: the operation is performed whatever the parser state is. -/
theorem rxFlushWritesOnlyTheState : Obligations.RxFlushWritesOnlyTheState :=
  ⟨by decide, fun s => ⟨rfl, exec_rxFlush s⟩⟩

/-- An RX_BYTE delivers a frame only in ReadChecksum, for the byte that verifies (R136). -/
theorem feed_frameReady {f : Frame} (h : feed p d b r = .done q o) (ho : o.rxEv = .frameReady f) :
    r.state = .readChecksum ∧ b = ckFinal p r.acc ∧ f = ⟨r.cmd, memReadTo d .rxb r.buf r.len.toNat⟩ := by
  obtain ⟨-, rfl, -⟩ | ⟨-, rfl, -⟩ | ⟨-, rfl, -⟩ | ⟨-, rfl, -⟩ | ⟨-, -, rfl, -⟩ | ⟨hs, rfl, -⟩ := feed_done h
  case inr.inr.inr.inr.inr =>
    rw [emitRx_rxEv, rxVerdict] at ho
    split at ho
    · next hb => exact ⟨hs, hb, (FrameEvent.frameReady.inj ho).symm⟩
    · cases ho
  all_goals cases ho

/-- An operation with an event is an RX_BYTE whose arm outputs that event. -/
theorem exec_event {i : Instr} (h : exec i s = .next t) (hev : t.out.rxEv ≠ .none) :
    ∃ b, i = .rxByte b ∧ feed Config.ck s.draws b s.rx = .done t.rx t.out := by
  obtain ⟨b, rfl⟩ := (oneOutputPerOperation i s t h).1 hev
  obtain ⟨r, o, hfeed, rfl⟩ | ⟨-, rfl⟩ := commitRx_next h
  · exact ⟨b, rfl, hfeed⟩
  · exact absurd rfl hev

/-- Settles O17: the event names the arm (`feed_frameReady`), and the invariant says what that arm compares with. -/
theorem deliveredFramesVerify : Obligations.DeliveredFramesVerify := by
  intro i s t f h hev
  obtain ⟨b, rfl, hfeed⟩ := exec_event h (by simp [hev])
  obtain ⟨hs, hb, rfl⟩ := feed_frameReady hfeed hev
  refine ⟨b, rfl, hs, hb, rfl, rfl, fun hinv => ⟨memReadTo_length .., ?_⟩⟩
  rw [hb, ckFinal_acc_of_readChecksum hinv.rx hinv.rxChecksum hs, frameBody_memReadTo]

end

end Sys2Proof.Machine
end

section
/-! Runs of RX_BYTE from AwaitStart: frames, noise and both in turn (R140, R141, R144). -/

namespace Sys2Proof.Machine

section
variable {p : CkParams} {s : State}

/-- The bytes of a frame, received: no event before the last byte, and there the frame. -/
theorem observeRxWith_frameBytes {c : Byte} {payload wire : List Byte} (hs : s.rx.state = .awaitStart)
    (hwire : frameBytes p c payload = some wire) :
    ∃ t, observeRxWith p wire s =
        some (List.replicate (payload.length + 4) Out.quiet ++ [emitRx (.frameReady ⟨c, payload⟩)], t) ∧
      t.rx.state = .awaitStart ∧ t.tx = s.tx := by
  obtain ⟨hlen, rfl⟩ := frameBytes_eq_some hwire
  obtain ⟨t, hrun, ht, htx, -⟩ := observeRxWith_frame (p := p) c (checksum p (frameBody c payload)) payload s hs hlen
  rw [if_pos rfl] at hrun
  exact ⟨t, hrun, ht, htx⟩

/-- Noise in AwaitStart changes no register (R131). -/
theorem observeRxWith_noise (noise : List Byte) (s : State) (hs : s.rx.state = .awaitStart)
    (hnoise : Config.start ∉ noise) :
    ∃ t, observeRxWith p noise s = some (List.replicate noise.length Out.quiet, t) ∧ t.rx = s.rx := by
  induction noise generalizing s with
  | nil => exact ⟨s, rfl, rfl⟩
  | cons b bs ih =>
    obtain ⟨hb, hbs⟩ : Config.start ≠ b ∧ Config.start ∉ bs := by simpa using hnoise
    have hkeep : rxAwaitStart p b s.rx = s.rx := if_neg hb.symm
    have hfeed := feed_awaitStart (p := p) (d := s.draws) (b := b) hs
    rw [hkeep] at hfeed
    obtain ⟨t, hrun, hrx⟩ := ih (s.withRx s.rx Out.quiet) hs hbs
    exact ⟨t, observeRxWith_cons hfeed hrun, hrx⟩

/-- Settles O19: the CHECKSUM byte of `frame_bytes` is the one the parser compares with. -/
theorem frameRoundTrip : Obligations.FrameRoundTrip := by
  intro s c payload wire hs hwire
  rw [observe_rxBytes]
  exact observeRxWith_frameBytes hs hwire

/-- Settles O20: after the noise the parser is still in AwaitStart, where the frame is received. -/
theorem noiseThenFrame : Obligations.NoiseThenFrame := by
  intro s c noise payload wire hs hnoise hwire
  obtain ⟨u, hnoiseRun, hu⟩ := observeRxWith_noise (p := Config.ck) noise s hs hnoise
  obtain ⟨t, hframeRun, ht, -⟩ := observeRxWith_frameBytes (s := u) (by rw [hu, hs]) hwire
  refine ⟨t, ?_, ht⟩
  rw [observe_rxBytes, observeRxWith_append hnoiseRun hframeRun, ← List.append_assoc, ← List.replicate_add,
    ← Nat.add_assoc]

/-- A frame given by its command, its payload and the noise after it, as bytes. -/
def noisyFrame (p : CkParams) (f : Byte × List Byte × List Byte) : List Byte :=
  (frameBytes p f.1 f.2.1).getD [] ++ f.2.2

/-- The outputs of a frame with noise after it: FrameReady at its CHECKSUM byte and no other event. -/
def noisyFrameOuts (f : Byte × List Byte × List Byte) : List Out :=
  List.replicate (f.2.1.length + 4) Out.quiet ++
    emitRx (.frameReady ⟨f.1, f.2.1⟩) :: List.replicate f.2.2.length Out.quiet

theorem observeRxWith_noisyFrame {f : Byte × List Byte × List Byte} (hs : s.rx.state = .awaitStart)
    (hlen : f.2.1.length ≤ 65535) (hnoise : Config.start ∉ f.2.2) :
    ∃ t, observeRxWith p (noisyFrame p f) s = some (noisyFrameOuts f, t) ∧ t.rx.state = .awaitStart := by
  obtain ⟨wire, hwire⟩ := Option.ne_none_iff_exists'.1 (mt frameBytes_eq_none.1 (Nat.not_lt.2 hlen) :
    frameBytes p f.1 f.2.1 ≠ none)
  obtain ⟨u, hframeRun, hu, -⟩ := observeRxWith_frameBytes hs hwire
  obtain ⟨t, hnoiseRun, ht⟩ := observeRxWith_noise (p := p) f.2.2 u hu hnoise
  refine ⟨t, ?_, by rw [ht, hu]⟩
  rw [noisyFrame, hwire, Option.getD_some, observeRxWith_append hframeRun hnoiseRun, noisyFrameOuts,
    List.append_assoc, List.singleton_append]

theorem observeRxWith_noisyFrames (frames : List (Byte × List Byte × List Byte)) (s : State)
    (hs : s.rx.state = .awaitStart) (hframes : ∀ f ∈ frames, f.2.1.length ≤ 65535 ∧ Config.start ∉ f.2.2) :
    ∃ t, observeRxWith p (frames.flatMap (noisyFrame p)) s = some (frames.flatMap noisyFrameOuts, t) ∧
      t.rx.state = .awaitStart := by
  induction frames generalizing s with
  | nil => exact ⟨s, rfl, hs⟩
  | cons f fs ih =>
    obtain ⟨⟨hlen, hnoise⟩, hfs⟩ := List.forall_mem_cons.1 hframes
    obtain ⟨u, hfirst, hu⟩ := observeRxWith_noisyFrame (p := p) hs hlen hnoise
    obtain ⟨t, hrest, ht⟩ := ih u hu hfs
    exact ⟨t, observeRxWith_append hfirst hrest, ht⟩

theorem eventsOf_append (xs ys : List Out) : eventsOf (xs ++ ys) = eventsOf xs ++ eventsOf ys := by
  simp [eventsOf]

theorem eventsOf_replicate_quiet (n : Nat) : eventsOf (List.replicate n Out.quiet) = [] := by
  simp [eventsOf]

theorem eventsOf_emitRx_cons {e : FrameEvent} (he : e ≠ .none) (outs : List Out) :
    eventsOf (emitRx e :: outs) = e :: eventsOf outs := by
  simp [eventsOf, he]

theorem eventsOf_noisyFrameOuts (f : Byte × List Byte × List Byte) :
    eventsOf (noisyFrameOuts f) = [.frameReady ⟨f.1, f.2.1⟩] := by
  rw [noisyFrameOuts, eventsOf_append, eventsOf_emitRx_cons (by simp), eventsOf_replicate_quiet,
    eventsOf_replicate_quiet, List.nil_append]

theorem eventsOf_noisyFrames (frames : List (Byte × List Byte × List Byte)) :
    eventsOf (frames.flatMap noisyFrameOuts) = frames.map fun f => .frameReady ⟨f.1, f.2.1⟩ := by
  induction frames with
  | nil => rfl
  | cons f fs ih =>
    rw [List.flatMap_cons, eventsOf_append, eventsOf_noisyFrameOuts, ih, List.map_cons, List.singleton_append]

end

/-- Settles O21: each frame and the noise after it lead from AwaitStart to AwaitStart. -/
theorem concatenatedFrames : Obligations.ConcatenatedFrames := by
  intro s frames hs hframes
  obtain ⟨t, hrun, ht⟩ := observeRxWith_noisyFrames (p := Config.ck) frames s hs hframes
  exact ⟨_, t, (observe_rxBytes _ s).trans hrun, rfl, eventsOf_noisyFrames frames, ht⟩

end Sys2Proof.Machine
end

section
/-! The parser comes back to AwaitStart (R143): each RX_BYTE outside AwaitStart lowers the bound of bytes still needed. -/

namespace Sys2Proof.Machine

section
variable {p : CkParams} {d : Nat} {b : Byte} {r q : RxPath} {o : Out}

/-- Under the invariant of R37 every byte is received. -/
theorem RxInv.feed_ne_fault (hinv : RxInv r) (f : Fault) : feed p d b r ≠ .fault f := by
  rw [Ne, feed_eq_fault]
  rintro ⟨hs, hidx, -⟩
  obtain ⟨hpos, hle⟩ := hinv.readPayload hs
  exact RxPath.index_ne hpos hle hidx

theorem feed_ne_held : feed p d b r ≠ .held := by
  cases hs : r.state <;> simp only [feed, hs]
  case readPayload => split <;> simp
  all_goals simp

theorem RxInv.feed_done_exists (hinv : RxInv r) : ∃ q o, feed p d b r = .done q o := by
  cases h : feed p d b r with
  | done q o => exact ⟨q, o, rfl⟩
  | held => exact absurd h feed_ne_held
  | fault f => exact absurd h (hinv.feed_ne_fault f)

theorem RxPath.recoveryBound_eq_zero : r.recoveryBound = 0 ↔ r.state = .awaitStart := by
  cases hs : r.state <;> simp [RxPath.recoveryBound, hs]

/-- An RX_BYTE outside AwaitStart brings the parser nearer to it. -/
theorem feed_recoveryBound_lt (hinv : RxInv r) (hs : r.state ≠ .awaitStart) (h : feed p d b r = .done q o) :
    q.recoveryBound < r.recoveryBound := by
  obtain ⟨hs', -, -⟩ | ⟨hs', -, rfl⟩ | ⟨hs', -, rfl⟩ | ⟨hs', -, rfl⟩ | ⟨hs', -, -, rfl⟩ | ⟨hs', -, rfl⟩ := feed_done h
  · exact absurd hs' hs
  · simp [RxPath.recoveryBound, rxReadLenHi, hs']
  · have := (lenWithLo r.len b).isLt
    simp only [RxPath.recoveryBound, rxReadLenLo, hs']
    omega
  · have hrem : r.rem = r.len := hinv.readCmd hs'
    by_cases hlen : r.len = 0x0000#16 <;> simp [RxPath.recoveryBound, rxReadCmd, hs', hlen, hrem]
  · obtain ⟨hpos, -⟩ := hinv.readPayload hs'
    by_cases hlast : r.rem - 1#16 = 0x0000#16 <;> simp only [RxPath.recoveryBound, rxReadPayload, hs', hlast]
    · exact Nat.lt_add_of_pos_left hpos
    · exact Nat.add_lt_add_right (by bv_omega) 1
  · simp [RxPath.recoveryBound, hs']

/-- Enough bytes, whatever they are, hold a first part after which the parser is in AwaitStart. -/
theorem observeRxWith_recovers (bytes : List Byte) (s : State) (hinv : RxInv s.rx)
    (hlen : s.rx.recoveryBound ≤ bytes.length) :
    ∃ k outs t, k ≤ s.rx.recoveryBound ∧ observeRxWith p (bytes.take k) s = some (outs, t) ∧
      t.rx.state = .awaitStart := by
  induction bytes generalizing s with
  | nil => exact ⟨0, [], s, Nat.zero_le _, rfl, RxPath.recoveryBound_eq_zero.1 (Nat.le_zero.1 hlen)⟩
  | cons b bs ih =>
    by_cases hs : s.rx.state = .awaitStart
    · exact ⟨0, [], s, Nat.zero_le _, rfl, hs⟩
    · obtain ⟨q, o, hfeed⟩ := hinv.feed_done_exists (p := p) (d := s.draws) (b := b)
      have hlt : q.recoveryBound < s.rx.recoveryBound := feed_recoveryBound_lt hinv hs hfeed
      obtain ⟨k, outs, t, hk, hrun, ht⟩ := ih (s.withRx q o) (feed_keeps_rxInv hinv hfeed)
        (Nat.le_of_lt_succ (hlt.trans_le hlen))
      exact ⟨k + 1, o :: outs, t, hk.trans_lt hlt, observeRxWith_cons hfeed hrun, ht⟩

end

/-- Settles O22: no byte faults under the invariant of R37, and each lowers the bound until the parser is back. -/
theorem parserNeverWedges : Obligations.ParserNeverWedges := by
  refine fun s hinv => ⟨fun bytes hlen => ?_, _, exec_rxFlush s, rfl⟩
  simp only [observe_rxBytes]
  exact observeRxWith_recovers bytes s hinv hlen.ge

end Sys2Proof.Machine
end

section
/-! Determinism by path (R145). -/

namespace Sys2Proof.Machine

/-- Where operations read only `view`, two states with the same `view` give the same next `view` and output. -/
theorem ReadsOnly.deterministic {α : Type} {path : Instr → Bool} {view : State → α} (hreads : ReadsOnly path view)
    {i : Instr} {s s' t t' : State} (hi : path i = true) (hview : view s' = view s) (h : exec i s = .next t)
    (h' : exec i s' = .next t') : view t' = view t ∧ t'.out = t.out := by
  obtain ⟨u, hu, huview, huout, -⟩ := hreads i s s' t hi hview h
  rw [hu] at h'
  cases h'
  exact ⟨huview, huout⟩

/-- Settles O46: each path's operations read that path and the draw only. -/
theorem pathIsAFunctionOfItself : Obligations.PathIsAFunctionOfItself := by
  intro i s s' t t' hdraws h h'
  refine ⟨fun hi hrx => ?_, fun hi htx => ?_⟩
  · obtain ⟨hview, hout⟩ := receivePath_readsOnly_rxView.deterministic hi (Prod.ext hrx hdraws) h h'
    exact ⟨congrArg Prod.fst hview, hout⟩
  · obtain ⟨hview, hout⟩ := transmitPath_readsOnly_txView.deterministic hi (Prod.ext htx hdraws) h h'
    exact ⟨congrArg Prod.fst hview, hout⟩

end Sys2Proof.Machine
end

section
/-! The checksum under an error of one bit (42_integrity.md R168, second item): the difference of the two registers
goes through the linear shifts and never vanishes. -/

namespace Sys2Proof.Machine

section
variable {poly a : Byte}

theorem xor_ne_left (a : Byte) {d : Byte} (hd : d ≠ 0x00#8) : a ^^^ d ≠ a := fun h =>
  hd ((BitVec.xor_right_inj a).1 (h.trans BitVec.xor_zero.symm))

theorem ckShift_xor (poly a d : Byte) : ckShift poly (a ^^^ d) = ckShift poly a ^^^ ckShift poly d := by
  have hshift : (a ^^^ d) <<< 1 = a <<< 1 ^^^ d <<< 1 := BitVec.shiftLeft_xor_distrib ..
  have hswap : a <<< 1 ^^^ poly ^^^ d <<< 1 = a <<< 1 ^^^ d <<< 1 ^^^ poly := by ac_rfl
  have hcancel : a <<< 1 ^^^ poly ^^^ (d <<< 1 ^^^ poly) = a <<< 1 ^^^ d <<< 1 := by
    rw [← BitVec.xor_assoc, hswap, BitVec.xor_assoc, BitVec.xor_self, BitVec.xor_zero]
  unfold ckShift
  rw [hshift, BitVec.getLsbD_xor]
  cases a.getLsbD 7 <;> cases d.getLsbD 7 <;> simp [hswap, hcancel, BitVec.xor_assoc]

theorem ckShift8_xor (poly a d : Byte) : ckShift8 poly (a ^^^ d) = ckShift8 poly a ^^^ ckShift8 poly d := by
  simp only [ckShift8, ckShift_xor]

/-- Every set bit of `a` has a set bit of the polynomial at or below it. -/
def ClearBelow (poly a : Byte) : Prop := ∀ i, a.getLsbD i = true → ∃ j ≤ i, poly.getLsbD j = true

/-- Shifting lifts every bit, so no set bit of the polynomial could be its lowest. -/
theorem ClearBelow.shift_ne (h : ClearBelow poly a) (hpoly : poly ≠ 0x00#8) : a <<< 1 ≠ poly := by
  intro heq
  have hclear : ∀ i, poly.getLsbD i = false := by
    intro i
    induction i using Nat.strong_induction_on with
    | _ i ih =>
      by_contra hi
      obtain ⟨-, hpos, hbit⟩ : i < 8 ∧ 1 ≤ i ∧ a.getLsbD (i - 1) = true := by
        simpa [← heq, Nat.one_le_iff_ne_zero, and_assoc] using hi
      obtain ⟨j, hj, hset⟩ := h (i - 1) hbit
      simp [ih j (by omega)] at hset
  exact hpoly (BitVec.eq_of_getLsbD_eq fun i _ => by simp [hclear i])

theorem ClearBelow.shifted (h : ClearBelow poly a) : ClearBelow poly (ckShift poly a) := by
  intro i hi
  cases hp : poly.getLsbD i with
  | true => exact ⟨i, le_rfl, hp⟩
  | false =>
    have hbit : a.getLsbD (i - 1) = true := by
      unfold ckShift at hi
      split at hi <;> simp [hp] at hi <;> exact hi.2
    obtain ⟨j, hj, hset⟩ := h (i - 1) hbit
    exact ⟨j, by omega, hset⟩

theorem ClearBelow.shifted_ne_zero (h : ClearBelow poly a) (ha : a ≠ 0x00#8) (hpoly : poly ≠ 0x00#8) :
    ckShift poly a ≠ 0x00#8 := by
  unfold ckShift
  split
  · rw [Ne, BitVec.xor_eq_zero_iff]
    exact h.shift_ne hpoly
  · next htop =>
    refine fun hzero => ha (BitVec.eq_of_getLsbD_eq fun i hi => ?_)
    by_cases hi7 : i = 7
    · simpa [hi7] using htop
    · have hbit : (a <<< 1).getLsbD (i + 1) = false := by simp [hzero]
      simpa [show i + 1 < 8 by omega, hi] using hbit

/-- An error pattern in the checksum register that no shift cancels: one bit, or a multiple of the polynomial's
trailing power of x. -/
def Persists (poly a : Byte) : Prop := a ≠ 0x00#8 ∧ ((∃ j < 8, a = 1#8 <<< j) ∨ ClearBelow poly a)

theorem Persists.bit (poly : Byte) {j : Nat} (hj : j < 8) : Persists poly (1#8 <<< j) :=
  ⟨(by decide : ∀ j < 8, 1#8 <<< j ≠ 0x00#8) j hj, .inl ⟨j, hj, rfl⟩⟩

theorem ckShift_bit {j : Nat} (hj : j < 7) : ckShift poly (1#8 <<< j) = 1#8 <<< (j + 1) := by
  have hlow : ∀ j < 7, (1#8 <<< j).getLsbD 7 = false := by decide
  rw [ckShift, hlow j hj, BitVec.shiftLeft_add]
  rfl

theorem ckShift_topBit : ckShift poly (1#8 <<< 7) = poly := BitVec.zero_xor

theorem Persists.shifted (h : Persists poly a) (hpoly : poly ≠ 0x00#8) : Persists poly (ckShift poly a) := by
  obtain ⟨hne, ⟨j, hj, rfl⟩ | hclear⟩ := h
  · by_cases hj7 : j < 7
    · rw [ckShift_bit hj7]
      exact .bit poly (Nat.succ_lt_succ hj7)
    · obtain rfl : j = 7 := by omega
      rw [ckShift_topBit]
      exact ⟨hpoly, .inr fun i hi => ⟨i, le_rfl, hi⟩⟩
  · exact ⟨hclear.shifted_ne_zero hne hpoly, .inr hclear.shifted⟩

theorem Persists.shifted8 (h : Persists poly a) (hpoly : poly ≠ 0x00#8) : Persists poly (ckShift8 poly a) :=
  ((((((((h.shifted hpoly).shifted hpoly).shifted hpoly).shifted hpoly).shifted hpoly).shifted hpoly).shifted
    hpoly).shifted hpoly)

end

theorem getLsbD_reflect8 (v : Byte) {i : Nat} (hi : i < 8) : (reflect8 v).getLsbD i = v.getLsbD (7 - i) := by
  -- the width as the sum over the eight appended bits, which `BitVec.getLsbD_append` takes apart
  change BitVec.getLsbD (w := 1 + 1 + 1 + 1 + 1 + 1 + 1 + 1) _ i = _
  interval_cases i <;> simp only [reflect8, BitVec.getLsbD_append, BitVec.getLsbD_ofBool] <;> rfl

theorem reflect8_xor (a b : Byte) : reflect8 (a ^^^ b) = reflect8 a ^^^ reflect8 b :=
  BitVec.eq_of_getLsbD_eq fun i hi => by simp only [BitVec.getLsbD_xor, getLsbD_reflect8 _ hi]

theorem reflect8_reflect8 (v : Byte) : reflect8 (reflect8 v) = v :=
  BitVec.eq_of_getLsbD_eq fun i hi => by
    rw [getLsbD_reflect8 _ hi, getLsbD_reflect8 _ (by omega), show 7 - (7 - i) = i by omega]

theorem reflect8_bit : ∀ j < 8, reflect8 (1#8 <<< j) = 1#8 <<< (7 - j) := by decide

section
variable {p : CkParams}

theorem ckStep_xor_acc (p : CkParams) (acc d b : Byte) :
    ckStep p (acc ^^^ d) b = ckStep p acc b ^^^ ckShift8 p.poly d := by
  rw [ckStep, ckStep, ← ckShift8_xor, BitVec.xor_assoc, BitVec.xor_comm d, BitVec.xor_assoc]

/-- A covered byte with one bit inverted gives a register that differs by a persistent pattern. -/
theorem ckStep_xor_bit (acc b : Byte) {j : Nat} (hj : j < 8) (hpoly : p.poly ≠ 0x00#8) :
    ∃ d, Persists p.poly d ∧ ckStep p acc (b ^^^ (1#8 <<< j)) = ckStep p acc b ^^^ d := by
  cases hrefin : p.refin with
  | true =>
    refine ⟨_, (Persists.bit p.poly (show 7 - j < 8 by omega)).shifted8 hpoly, ?_⟩
    simp only [ckStep, hrefin, if_true, reflect8_xor, reflect8_bit j hj, ← ckShift8_xor, BitVec.xor_assoc]
  | false =>
    refine ⟨_, (Persists.bit p.poly hj).shifted8 hpoly, ?_⟩
    simp only [ckStep, hrefin, Bool.false_eq_true, if_false, ← ckShift8_xor, BitVec.xor_assoc]

theorem ckFold_persists {d : Byte} (bs : List Byte) (a : Byte) (hd : Persists p.poly d) (hpoly : p.poly ≠ 0x00#8) :
    ckFold p (a ^^^ d) bs ≠ ckFold p a bs := by
  induction bs generalizing a d with
  | nil => exact xor_ne_left a hd.1
  | cons b bs ih =>
    rw [ckFold_cons, ckFold_cons, ckStep_xor_acc]
    exact ih _ (hd.shifted8 hpoly)

theorem ckFinal_injective (p : CkParams) : Function.Injective (ckFinal p) := by
  intro a b h
  have hout := (BitVec.xor_left_inj p.xorout).1 h
  cases hrefout : p.refout with
  | true =>
    simp only [hrefout, if_true] at hout
    rw [← reflect8_reflect8 a, hout, reflect8_reflect8]
  | false => simpa [hrefout] using hout

/-- An error of one bit changes the checksum. -/
theorem checksum_bit_ne (before after : List Byte) (b : Byte) {j : Nat} (hj : j < 8) (hpoly : p.poly ≠ 0x00#8) :
    checksum p (before ++ [b ^^^ (1#8 <<< j)] ++ after) ≠ checksum p (before ++ [b] ++ after) := by
  obtain ⟨d, hd, hstep⟩ := ckStep_xor_bit (ckFold p p.init before) b hj hpoly
  refine (ckFinal_injective p).ne ?_
  simp only [ckFold_append, ckFold_cons, ckFold_nil, hstep]
  exact ckFold_persists after _ hd hpoly

theorem checksum_set_bit_ne {msg : List Byte} {k j : Nat} {b : Byte} (hb : msg[k]? = some b) (hj : j < 8)
    (hpoly : p.poly ≠ 0x00#8) : checksum p (msg.set k (b ^^^ (1#8 <<< j))) ≠ checksum p msg := by
  obtain ⟨hk, rfl⟩ := List.getElem?_eq_some_iff.1 hb
  have h := checksum_bit_ne (msg.take k) (msg.drop (k + 1)) msg[k] hj hpoly
  have hset (v : Byte) : msg.take k ++ [v] ++ msg.drop (k + 1) = msg.set k v := by
    rw [List.set_eq_take_append_cons_drop, if_pos hk, List.append_assoc, List.singleton_append]
  rwa [hset, hset, List.set_getElem_self] at h

end

end Sys2Proof.Machine
end

section
/-! A frame with one bit inverted after its LENGTH (R142, first case). -/

namespace Sys2Proof.Machine

section
variable {p : CkParams} {c b : Byte} {payload wire : List Byte} {k j : Nat}

/-- A covered byte after LENGTH is the COMMAND or a payload byte, so with another byte there the covered bytes are those
of another frame of the same length. -/
theorem frameBody_set {n : Nat} (c b : Byte) (payload : List Byte) (hn : 2 ≤ n) :
    ∃ c' payload', payload'.length = payload.length ∧ (frameBody c payload).set n b = frameBody c' payload' := by
  obtain ⟨m, rfl⟩ := Nat.exists_eq_add_of_le' hn
  cases m with
  | zero => exact ⟨b, payload, rfl, rfl⟩
  | succ m =>
    refine ⟨c, payload.set m b, List.length_set, ?_⟩
    rw [frameBody, frameBody, List.length_set]
    rfl

/-- A frame with one bit inverted after its LENGTH is START, the covered bytes of some frame of the same length, and a
byte that is not their checksum. -/
theorem frameBytes_set_bit (hpoly : p.poly ≠ 0x00#8) (hwire : frameBytes p c payload = some wire) (hk : 3 ≤ k)
    (hb : wire[k]? = some b) (hj : j < 8) :
    ∃ c' payload' b', payload'.length = payload.length ∧ b' ≠ checksum p (frameBody c' payload') ∧
      wire.set k (b ^^^ (1#8 <<< j)) = Config.start :: frameBody c' payload' ++ [b'] := by
  obtain ⟨-, rfl⟩ := frameBytes_eq_some hwire
  obtain ⟨n, rfl⟩ := Nat.exists_eq_add_of_le' (by omega : 1 ≤ k)
  rw [List.cons_append, List.getElem?_cons_succ] at hb
  rw [List.cons_append, List.set_cons_succ]
  by_cases hn : n < (frameBody c payload).length
  · rw [List.getElem?_append_left hn] at hb
    have hne := checksum_set_bit_ne hb hj hpoly
    obtain ⟨c', payload', hlen, hset⟩ := frameBody_set c (b ^^^ (1#8 <<< j)) payload (Nat.le_of_succ_le_succ hk)
    rw [hset] at hne
    exact ⟨c', payload', _, hlen, hne.symm, by rw [List.set_append_left _ _ hn, hset]; rfl⟩
  · rw [List.getElem?_append_right (Nat.le_of_not_lt hn), List.getElem?_singleton] at hb
    obtain ⟨hlast, rfl⟩ : n - (frameBody c payload).length = 0 ∧ checksum p (frameBody c payload) = b := by
      simpa using hb
    refine ⟨c, payload, _, rfl, xor_ne_left _ (Persists.bit p.poly hj).1, ?_⟩
    rw [List.set_append_right _ _ (Nat.le_of_not_lt hn), hlast]
    rfl

end

/-- Settles O24: the parser compares the last byte with a checksum it is not (`observeRxWith_frame`). -/
theorem singleBitFlipIsCorrupt : Obligations.SingleBitFlipIsCorrupt := by
  intro p s c payload wire k j b hpoly hs hwire hk hb hj
  obtain ⟨c', payload', b', hlen, hne, hset⟩ := frameBytes_set_bit hpoly hwire hk hb hj
  obtain ⟨t, hrun, ht, -, -⟩ := observeRxWith_frame (p := p) c' b' payload' s hs
    (hlen.le.trans (frameBytes_eq_some hwire).1)
  rw [if_neg hne, hlen] at hrun
  exact ⟨t, by rw [hset, hrun], ht⟩

end Sys2Proof.Machine
end

section
/-! The strength of the checksum (42_integrity.md R161, R168, R169): it is affine in the message, and an error confined to
one bit or to one byte leaves the register with a difference that no shift cancels exactly when CK_POLY is not 0x00 or,
in turn, is odd. -/

namespace Sys2Proof.Machine

/-- Settles O52: the bits of `getLsbD_reflect8`, and the two examples evaluated. -/
theorem reflectReversesBits : Obligations.ReflectReversesBits :=
  ⟨fun v _ hi => getLsbD_reflect8 v hi, by decide, by decide⟩

/-- Settles O53: both checksums evaluated. -/
theorem catalogueCheckValues : Obligations.CatalogueCheckValues := by
  unfold Obligations.CatalogueCheckValues
  decide +kernel

theorem reflect8_injective : Function.Injective reflect8 := Function.LeftInverse.injective reflect8_reflect8

/-- Reflection is linear, whether CK_REFIN or CK_REFOUT asks for it or not. -/
theorem reflect8_ite_xor (r : Bool) (a b : Byte) :
    (if r then reflect8 (a ^^^ b) else a ^^^ b) =
      (if r then reflect8 a else a) ^^^ (if r then reflect8 b else b) := by
  cases r with
  | true => exact reflect8_xor a b
  | false => rfl

theorem reflect8_ite_ne_zero (r : Bool) {a : Byte} (ha : a ≠ 0x00#8) :
    (if r then reflect8 a else a) ≠ 0x00#8 := by
  cases r with
  | true => exact reflect8_injective.ne ha
  | false => exact ha

/-- With CK_POLY = 0x00 eight shifts move every bit out of the register. -/
theorem ckShift8_zeroPoly (a : Byte) : ckShift8 0x00#8 a = 0x00#8 := by
  have hshift (a : Byte) : ckShift 0x00#8 a = a <<< 1 := by simp [ckShift]
  simp only [ckShift8, hshift, ← BitVec.shiftLeft_add]
  exact BitVec.shiftLeft_eq_zero (le_refl 8)

/-- Bit 0 of the register after a shift comes from the polynomial alone. -/
theorem getLsbD_ckShift_zero (poly a : Byte) :
    (ckShift poly a).getLsbD 0 = (a.getLsbD 7 && poly.getLsbD 0) := by
  unfold ckShift
  cases a.getLsbD 7 <;> simp

/-- An odd polynomial cancels no error pattern at all. -/
theorem Persists.of_odd {poly a : Byte} (hodd : poly.getLsbD 0 = true) (ha : a ≠ 0x00#8) : Persists poly a :=
  ⟨ha, .inr fun i _ => ⟨0, i.zero_le, hodd⟩⟩

section
variable {p : CkParams}

theorem ckStep_xor (p : CkParams) (acc d b e : Byte) :
    ckStep p (acc ^^^ d) (b ^^^ e) = ckStep p acc b ^^^ ckStep p d e := by
  rw [ckStep, reflect8_ite_xor, ckStep, ckStep, ← ckShift8_xor]
  ac_rfl

theorem ckFold_zipWith_xor (p : CkParams) (a d : Byte) {msg err : List Byte} (hlen : msg.length = err.length) :
    ckFold p (a ^^^ d) (List.zipWith (· ^^^ ·) msg err) = ckFold p a msg ^^^ ckFold p d err := by
  induction msg generalizing err a d with
  | nil =>
    obtain rfl : err = [] := List.length_eq_zero_iff.1 hlen.symm
    rfl
  | cons b msg ih =>
    obtain ⟨e, err, rfl⟩ := List.exists_cons_of_length_eq_add_one hlen.symm
    rw [List.zipWith_cons_cons, ckFold_cons, ckStep_xor]
    exact ih _ _ (Nat.succ.inj hlen)

theorem ckFinal_xor (p : CkParams) (a d : Byte) :
    ckFinal p (a ^^^ d) = ckFinal p a ^^^ ckFinal { p with init := 0x00#8, xorout := 0x00#8 } d := by
  rw [ckFinal, reflect8_ite_xor, ckFinal, ckFinal, BitVec.xor_zero]
  ac_rfl

/-- A covered byte replaced by another changes the checksum when the polynomial is odd. -/
theorem checksum_byte_ne (before after : List Byte) {b b' : Byte} (hb : b ≠ b') (hodd : p.poly.getLsbD 0 = true) :
    checksum p (before ++ [b] ++ after) ≠ checksum p (before ++ [b'] ++ after) := by
  have hpoly : p.poly ≠ 0x00#8 := fun h => by simp [h] at hodd
  have hstep (acc : Byte) : ckStep p acc b = ckStep p acc b' ^^^ ckStep p 0x00#8 (b' ^^^ b) := by
    rw [← ckStep_xor, BitVec.xor_zero, ← BitVec.xor_assoc, BitVec.xor_self, BitVec.zero_xor]
  have herr : b' ^^^ b ≠ 0x00#8 := fun h => hb (BitVec.xor_eq_zero_iff.1 h).symm
  have hpersists : Persists p.poly (ckStep p 0x00#8 (b' ^^^ b)) := by
    rw [ckStep, BitVec.zero_xor]
    exact (Persists.of_odd hodd (reflect8_ite_ne_zero _ herr)).shifted8 hpoly
  refine (ckFinal_injective p).ne ?_
  simp only [ckFold_append, ckFold_cons, ckFold_nil, hstep]
  exact ckFold_persists after _ hpersists hpoly

theorem checksum_singleton (p : CkParams) (b : Byte) : checksum p [b] = ckFinal p (ckStep p p.init b) := rfl

theorem getLsbD_ckStep_zero_of_even (heven : p.poly.getLsbD 0 = false) (acc b : Byte) :
    (ckStep p acc b).getLsbD 0 = false := by
  rw [ckStep, ckShift8, getLsbD_ckShift_zero, heven, Bool.and_false]

/-- With an even polynomial every step clears bit 0, so 256 bytes lead to at most 128 registers. -/
theorem ckStep_not_injective_of_even (heven : p.poly.getLsbD 0 = false) (acc : Byte) :
    ¬ Function.Injective (ckStep p acc) := by
  intro hinj
  obtain ⟨b, hb⟩ := Finite.injective_iff_surjective.1 hinj 0x01#8
  have hbit := getLsbD_ckStep_zero_of_even heven acc b
  rw [hb] at hbit
  cases hbit

end

/-- Settles O54: the register and the final XOR are affine, and crc0 is their linear part. -/
theorem checksumIsAffine : Obligations.ChecksumIsAffine := by
  intro p msg err hlen
  have hfold := ckFold_zipWith_xor p p.init 0x00#8 hlen
  rw [BitVec.xor_zero] at hfold
  rw [checksum, hfold, ckFinal_xor]
  rfl

/-- Settles O55: with CK_POLY = 0x00 every byte leads to the register 0x00, so the bytes 0x00 and 0x01 are not told
apart. -/
theorem singleBitErrorsDetected : Obligations.SingleBitErrorsDetected := by
  refine fun p => ⟨fun hdetected hzero => ?_, fun hpoly before after b j hj => checksum_bit_ne before after b hj hpoly⟩
  have hstep (b : Byte) : ckStep p p.init b = 0x00#8 := by rw [ckStep, hzero, ckShift8_zeroPoly]
  refine hdetected [] [] 0x00#8 0 (by decide) ?_
  simp [checksum_singleton, hstep]

/-- Settles O56: with CK_POLY even, a step is not injective in the byte it covers. -/
theorem singleByteErrorsDetected : Obligations.SingleByteErrorsDetected := by
  refine fun p => ⟨fun hdetected => ?_, fun hodd before after b b' hb => checksum_byte_ne before after hb hodd⟩
  by_contra heven
  refine ckStep_not_injective_of_even (Bool.eq_false_of_not_eq_true heven) p.init fun b b' hstep => ?_
  by_contra hb
  exact hdetected [] [] b b' hb (congrArg (ckFinal p) hstep)

end Sys2Proof.Machine
end

section
/-! Enabled and held operations (60_exceptions.md R185): a held operation has no step, and what ends the waiting. -/

namespace Sys2Proof.Machine

section
variable {i : Instr} {s t : State}

/-- The producer's operations are enabled while no frame is in progress. -/
theorem enabled_of_txProducer (hi : agentOf i = .txProducer) : enabled i s = true ↔ s.tx.phase = .idle := by
  have hbusy : enabled i s = !txBusy s := by
    cases i <;> simp [agentOf, enabled] at hi ⊢
  rw [hbusy, Bool.not_eq_true', ← Bool.not_eq_true, txBusy_iff, not_not]

/-- TX_EMIT is enabled while a frame is in progress. -/
theorem enabled_of_txLine (hi : agentOf i = .txLine) : enabled i s = true ↔ s.tx.phase ≠ .idle := by
  have hbusy : enabled i s = txBusy s := by
    cases i <;> simp [agentOf, enabled] at hi ⊢
  rw [hbusy, txBusy_iff]

/-- The operations of the other agents are always enabled. -/
theorem enabled_of_other (hproducer : agentOf i ≠ .txProducer) (hline : agentOf i ≠ .txLine) :
    enabled i s = true := by
  cases i <;> simp [agentOf, enabled] at hproducer hline ⊢

theorem agentOf_of_commandOf {c : Byte} (h : commandOf i = some c) : agentOf i = .txProducer := by
  cases i <;> simp [commandOf, agentOf] at h ⊢

/-- Whether an operation is enabled depends on the transmit path alone. -/
theorem enabled_congr (htx : t.tx = s.tx) : enabled i t = enabled i s := by
  cases i <;> simp only [enabled, txBusy, htx]

/-- An operation of the producer has no step while a frame is in progress. -/
theorem exec_of_txProducer_busy (hi : agentOf i = .txProducer) (hbusy : s.tx.phase ≠ .idle) :
    exec i s = .next s.hold := by
  obtain ⟨b, rfl⟩ | rfl | ⟨b, rfl⟩ | ⟨c, hc⟩ | rfl | rfl | rfl := instr_cases i
  case inr.inr.inl => exact commitTx_whenIdle_busy hbusy (pushByte b)
  case inr.inr.inr.inl => rw [exec_of_commandOf hc, sendCommand_holds c hbusy]
  case inr.inr.inr.inr.inl => exact commitTx_whenIdle_busy hbusy clearPayload
  all_goals cases hi

/-- An operation that is not enabled has no step. -/
theorem exec_of_not_enabled (h : enabled i s = false) : exec i s = .next s.hold := by
  by_cases hproducer : agentOf i = .txProducer
  · exact exec_of_txProducer_busy hproducer (by simp [← enabled_of_txProducer hproducer, h])
  · by_cases hline : agentOf i = .txLine
    · obtain rfl : i = .txEmit := by cases i <;> simp [agentOf] at hline ⊢
      exact exec_txEmit_of_idle (by simpa [h] using enabled_of_txLine (s := s) hline)
    · simp [enabled_of_other hproducer hline] at h

/-- An enabled operation is performed. -/
theorem exec_performed (hi : enabled i s = true) (h : exec i s = .next t) : t.handshake = .performed := by
  obtain ⟨b, r, o, -, -, rfl⟩ | ⟨-, rfl⟩ | ⟨b, p, o, -, -, -, rfl⟩ | ⟨c, p, o, -, -, -, rfl⟩ | ⟨-, -, rfl⟩ |
    ⟨p, o, -, -, -, rfl⟩ | ⟨-, rfl⟩ | ⟨hheld, -⟩ := exec_next_cases h
  case inr.inr.inr.inr.inr.inr.inr => simp [hheld] at hi
  all_goals rfl

/-- A step with an operation that is not enabled only uses the turn up. -/
theorem step_of_not_enabled {a : Agent} {ts : List Agent} {o : Offer} {os : List Offer} (h : enabled i s = false)
    (hturns : s.agents.turns = a :: ts) (hpending : s.agents.pending a = o :: os) (hdecode : decode o = .ok i) :
    step s = .next (s.withTurns ts).hold := by
  have hheld : enabled i (s.withTurns ts) = false := by rw [enabled_congr (State.withTurns_tx s ts), h]
  rw [step_of_decode_ok hturns hpending hdecode, offered, h]
  exact exec_of_not_enabled hheld

/-- Settles O8: a hold writes neither path and no agent's list, and which operations wait is read off their agent. -/
theorem heldOperationsWait : Obligations.HeldOperationsWait := by
  refine fun i s => ⟨exec_of_not_enabled, ?_, fun hi t => exec_performed hi, enabled_of_txProducer,
    enabled_of_txLine, enabled_of_other⟩
  intro hi a ts o os t hturns hpending hdecode hstep
  rw [step_of_not_enabled hi hturns hpending hdecode] at hstep
  cases hstep
  exact ⟨rfl, rfl, rfl, (State.withTurns_pending s ts a).trans hpending⟩

/-- The TX_EMIT that ends a frame is that of CHECKSUM (R104). -/
theorem emit_idle {p : CkParams} {d : Nat} {x q : TxPath} {o : Out} (h : emit p d x = .done q o)
    (hidle : q.phase = .idle) : x.phase = .ck := by
  obtain ⟨-, rfl, -⟩ | ⟨-, rfl, -⟩ | ⟨-, rfl, -⟩ | ⟨-, -, rfl⟩ | ⟨-, -, -, rfl⟩ | ⟨hp, -⟩ := emit_done_path h
  case inr.inr.inr.inr.inr => exact hp
  case inr.inr.inr.inl | inr.inr.inr.inr.inl => dsimp only at hidle; split at hidle <;> cases hidle
  all_goals cases hidle

/-- Only the TX_EMIT of CHECKSUM and RESET end a frame in progress. -/
theorem exec_ends_frame (h : exec i s = .next t) (hbusy : s.tx.phase ≠ .idle) (hidle : t.tx.phase = .idle) :
    (i = .txEmit ∧ s.tx.phase = .ck) ∨ i = .reset := by
  by_cases hreset : i = .reset
  · exact .inr hreset
  · by_cases hemit : i = .txEmit
    · subst hemit
      obtain ⟨q, o, hq, rfl⟩ | ⟨-, rfl⟩ := commitTx_next h
      · exact .inl ⟨rfl, emit_idle hq hidle⟩
      · exact absurd hidle hbusy
    · obtain ⟨htx, -⟩ := exec_tx_of_busy hbusy hemit hreset h
      exact absurd (htx ▸ hidle) hbusy

/-- Settles O9: the operation's next state is Idle or Start, and the last clause is `exec_ends_frame`. -/
theorem holdsAreLifted : Obligations.HoldsAreLifted := by
  refine fun s => ⟨fun hck => ?_, ?_, fun hidle hovf c => ?_, fun i t => exec_ends_frame⟩
  · exact ⟨_, exec_txEmit_of_done (emit_ck hck), fun b => rfl⟩
  · exact ⟨_, exec_reset s, fun b => rfl⟩
  · exact ⟨_, sendCommand_starts c hidle hovf, rfl⟩

end

end Sys2Proof.Machine
end

section
/-! The two errors (60_exceptions.md R181, R182): the operation that raises each, and the state it leaves. -/

namespace Sys2Proof.Machine

section
variable {s : State}

/-- An RX_BYTE in ReadChecksum with a byte that does not verify. -/
theorem exec_rxByte_corrupt {b : Byte} (hs : s.rx.state = .readChecksum) (hb : b ≠ ckFinal Config.ck s.rx.acc) :
    exec (.rxByte b) s = .next (s.withRx { s.rx with state := .awaitStart } (emitRx .corrupt)) := by
  rw [exec_rxByte_of_done (feed_readChecksum hs), rxVerdict, if_neg hb]

/-- RX_BYTE reports Corrupt only in ReadChecksum, for a byte that does not verify (R136). -/
theorem feed_corrupt {p : CkParams} {d : Nat} {b : Byte} {r q : RxPath} {o : Out} (h : feed p d b r = .done q o)
    (ho : o.rxEv = .corrupt) : r.state = .readChecksum ∧ b ≠ ckFinal p r.acc := by
  obtain ⟨-, rfl, -⟩ | ⟨-, rfl, -⟩ | ⟨-, rfl, -⟩ | ⟨-, rfl, -⟩ | ⟨-, -, rfl, -⟩ | ⟨hs, rfl, -⟩ := feed_done h
  case inr.inr.inr.inr.inr =>
    rw [emitRx_rxEv, rxVerdict] at ho
    split at ho
    · cases ho
    · next hb => exact ⟨hs, hb⟩
  all_goals cases ho

/-- Settles O18: the event names the arm and its byte (`feed_corrupt`), and they fix the next state. -/
theorem corruptRecordsNothing : Obligations.CorruptRecordsNothing := by
  intro i s t h
  have hcause : t.out.rxEv = .corrupt →
      ∃ b, i = .rxByte b ∧ s.rx.state = .readChecksum ∧ b ≠ ckFinal Config.ck s.rx.acc := by
    intro hev
    obtain ⟨b, hi, hfeed⟩ := exec_event h (by simp [hev])
    exact ⟨b, hi, feed_corrupt hfeed hev⟩
  have heffect : (∃ b, i = .rxByte b ∧ s.rx.state = .readChecksum ∧ b ≠ ckFinal Config.ck s.rx.acc) →
      t = s.withRx { s.rx with state := .awaitStart } (emitRx .corrupt) := by
    rintro ⟨b, rfl, hs, hb⟩
    exact Host.Outcome.next.inj (h.symm.trans (exec_rxByte_corrupt hs hb))
  exact ⟨⟨hcause, fun hi => by rw [heffect hi]; rfl⟩, fun hev => heffect (hcause hev)⟩

/-- An operation that sends a COMMAND raises PayloadTooLarge only in Idle with tx_ovf set. -/
theorem sendCommand_error {c : Byte} {t : State} (h : sendCommand c s = .next t)
    (herr : t.out.txErr = .payloadTooLarge) : s.tx.phase = .idle ∧ s.tx.ovf = true := by
  by_cases hidle : s.tx.phase = .idle
  · cases hovf : s.tx.ovf with
    | true => exact ⟨hidle, rfl⟩
    | false =>
      rw [sendCommand_starts c hidle hovf] at h
      cases h
      cases herr
  · rw [sendCommand_holds c hidle] at h
    cases h
    cases herr

/-- Settles O29: only an operation that sends a COMMAND has an error, and it then fails (`sendCommand_fails`). -/
theorem payloadTooLargeOnlyFromSend : Obligations.PayloadTooLargeOnlyFromSend := by
  intro i s t h
  have hcause : t.out.txErr = .payloadTooLarge →
      commandOf i ≠ none ∧ s.tx.phase = .idle ∧ txTooLarge s = true := by
    intro herr
    obtain ⟨-, -, hsend, -⟩ := oneOutputPerOperation i s t h
    have hsome : commandOf i ≠ none := hsend (by simp [herr])
    obtain ⟨c, hc⟩ := Option.ne_none_iff_exists'.1 hsome
    exact ⟨hsome, sendCommand_error (exec_of_commandOf hc s ▸ h) herr⟩
  have heffect : commandOf i ≠ none ∧ s.tx.phase = .idle ∧ txTooLarge s = true →
      t = s.withTx { s.tx with len := 0x0000#16, ovf := false } raisePayloadTooLarge := by
    rintro ⟨hsome, hidle, hovf⟩
    obtain ⟨c, hc⟩ := Option.ne_none_iff_exists'.1 hsome
    rw [exec_of_commandOf hc, sendCommand_fails c hidle hovf] at h
    exact (Host.Outcome.next.inj h).symm
  exact ⟨⟨hcause, fun hi => by rw [heffect hi]; rfl⟩, fun herr => heffect (hcause herr)⟩

end

end Sys2Proof.Machine
end

section
/-! Operations offered in one cycle (60_exceptions.md R187): a cycle without RESET splits into its receive-path and its
transmit-path operations, and each part is a run of at most two. -/

namespace Sys2Proof.Machine

theorem transmitPath_of_receivePath {i : Instr} (h : receivePath i = true) : transmitPath i = false := by
  cases htx : transmitPath i with
  | false => rfl
  | true => simp [receivePath_of_transmitPath htx] at h

theorem stepOuts_of_performed {t : State} (h : t.handshake = .performed) : stepOuts t = [t.out] := by
  rw [stepOuts, h]

/-- A run of one operation. -/
theorem observe_singleton {i : Instr} {s t : State} {outs : List Out} (h : observe [i] s = some (outs, t)) :
    exec i s = .next t ∧ outs = stepOuts t := by
  obtain ⟨v, rest, hexec, hrest, rfl⟩ := runBy_cons_some h
  cases hrest
  exact ⟨hexec, List.append_nil _⟩

/-- A run of one enabled operation. -/
theorem observe_performed {i : Instr} {s t : State} {outs : List Out} (hi : enabled i s = true)
    (h : observe [i] s = some (outs, t)) : exec i s = .next t ∧ outs = [t.out] := by
  obtain ⟨hexec, houts⟩ := observe_singleton h
  exact ⟨hexec, houts.trans (stepOuts_of_performed (exec_performed hi hexec))⟩

/-- Under the invariant every operation completes, and keeps it. -/
theorem State.Inv.exec_completes {s : State} (hinv : s.Inv) (i : Instr) : ∃ t, exec i s = .next t ∧ t.Inv := by
  cases h : exec i s with
  | next t => exact ⟨t, rfl, exec_keeps_inv hinv h⟩
  | fault f => exact absurd h (exec_ne_fault hinv.rx hinv.tx i f)
  | refused r => exact absurd h (exec_ne_refused i s r)

/-- Under the invariant every run completes. -/
theorem State.Inv.observe_completes {s : State} (hinv : s.Inv) (ops : List Instr) : ∃ x, observe ops s = some x := by
  induction ops generalizing s with
  | nil => exact ⟨_, rfl⟩
  | cons i ops ih =>
    obtain ⟨t, hexec, ht⟩ := hinv.exec_completes i
    obtain ⟨x, hx⟩ := ih ht
    exact ⟨_, by rw [observe, runBy_cons_next hexec, ← observe, hx, Option.map_some]⟩

@[simp] theorem agentOf_producerInstr (op : ProducerOp) : agentOf (producerInstr op) = .txProducer := by
  cases op <;> rfl

@[simp] theorem transmitPath_producerInstr (op : ProducerOp) : transmitPath (producerInstr op) = true := by
  cases op <;> rfl

section
variable {k : CycleOffer} {s t : State} {outs : List Out}

-- The two parts of a cycle -------------------------------------------------------------------------------

/-- While a frame is in progress the producer's operation is left out. -/
theorem cycleTx_of_busy (hbusy : s.tx.phase ≠ .idle) : cycleTx k s = if k.emit then [.txEmit] else [] := by
  cases hop : k.producer with
  | none => simp [cycleTx, hop]
  | some op =>
    have hheld : ¬ enabled (producerInstr op) s = true := by
      rwa [enabled_of_txProducer (agentOf_producerInstr op)]
    simp [cycleTx, hop, hheld]

/-- In Idle the producer's operation follows TX_EMIT. -/
theorem cycleTx_of_idle (hidle : s.tx.phase = .idle) :
    cycleTx k s = (if k.emit then [.txEmit] else []) ++ (k.producer.map producerInstr).toList := by
  cases hop : k.producer with
  | none => simp [cycleTx, hop]
  | some op =>
    have hen : enabled (producerInstr op) s = true := by
      rwa [enabled_of_txProducer (agentOf_producerInstr op)]
    simp [cycleTx, hop, hen]

theorem receivePath_of_mem_cycleRx {i : Instr} (hi : i ∈ cycleRx k) : receivePath i = true := by
  rw [cycleRx, List.mem_append] at hi
  obtain hi | hi := hi
  · obtain ⟨-, hi⟩ := List.mem_ite_nil_right.1 hi
    obtain rfl := List.mem_singleton.1 hi
    rfl
  · split at hi
    · obtain rfl := List.mem_singleton.1 hi
      rfl
    · cases hi

theorem transmitPath_of_mem_cycleTx {i : Instr} (hi : i ∈ cycleTx k s) : transmitPath i = true := by
  have hline : i ∈ (if k.emit then [.txEmit] else []) → transmitPath i = true := by
    intro hi
    obtain ⟨-, hi⟩ := List.mem_ite_nil_right.1 hi
    obtain rfl := List.mem_singleton.1 hi
    rfl
  by_cases hidle : s.tx.phase = .idle
  · rw [cycleTx_of_idle hidle, List.mem_append] at hi
    obtain hi | hi := hi
    · exact hline hi
    · obtain ⟨op, -, rfl⟩ := Option.map_eq_some_iff.1 (Option.mem_toList.1 hi)
      exact transmitPath_producerInstr op
  · rw [cycleTx_of_busy hidle] at hi
    exact hline hi

section
variable (hreset : k.reset = false)
include hreset

theorem cycleOps_of_no_reset : cycleOps k s = cycleRx k ++ cycleTx k s := by
  rw [cycleOps, hreset, if_neg Bool.false_ne_true]

theorem reset_notMem_cycleOps : .reset ∉ cycleOps k s := by
  rw [cycleOps_of_no_reset hreset, List.mem_append]
  rintro (hi | hi)
  · cases receivePath_of_mem_cycleRx hi
  · cases transmitPath_of_mem_cycleTx hi

theorem filter_receivePath_cycleOps : (cycleOps k s).filter receivePath = cycleRx k := by
  have htx : (cycleTx k s).filter receivePath = [] := List.filter_eq_nil_iff.2 fun i hi => by
    simp [receivePath_of_transmitPath (transmitPath_of_mem_cycleTx hi)]
  rw [cycleOps_of_no_reset hreset, List.filter_append, htx, List.append_nil]
  exact List.filter_eq_self.2 fun i => receivePath_of_mem_cycleRx

theorem filter_transmitPath_cycleOps : (cycleOps k s).filter transmitPath = cycleTx k s := by
  have hrx : (cycleRx k).filter transmitPath = [] := List.filter_eq_nil_iff.2 fun i hi => by
    simp [transmitPath_of_receivePath (receivePath_of_mem_cycleRx hi)]
  rw [cycleOps_of_no_reset hreset, List.filter_append, hrx, List.nil_append]
  exact List.filter_eq_self.2 fun i => transmitPath_of_mem_cycleTx

end

-- The receive path ---------------------------------------------------------------------------------------

/-- A flush and a byte: the byte is examined in AwaitStart. -/
theorem observe_cycleRx_flush_byte {b : Byte} (hflush : k.flush = true) (hrx : k.rx = some b)
    (h : observe (cycleRx k) s = some (outs, t)) :
    t.rx = rxAwaitStart Config.ck b { s.rx with state := .awaitStart } := by
  simp only [cycleRx, hflush, hrx, if_true, List.cons_append, List.nil_append] at h
  obtain ⟨v, rest, hexec, hrest, -⟩ := runBy_cons_some h
  cases hexec
  obtain ⟨hexec, -⟩ := observe_singleton hrest
  rw [exec_rxByte_of_done (feed_awaitStart rfl)] at hexec
  cases hexec
  rfl

theorem observe_cycleRx_flush (hflush : k.flush = true) (hrx : k.rx = none)
    (h : observe (cycleRx k) s = some (outs, t)) : t.rx = { s.rx with state := .awaitStart } := by
  simp only [cycleRx, hflush, hrx, if_true, List.append_nil] at h
  obtain ⟨hexec, -⟩ := observe_singleton h
  cases hexec
  rfl

theorem observe_cycleRx_byte {b : Byte} (hflush : k.flush = false) (hrx : k.rx = some b)
    (h : observe (cycleRx k) s = some (outs, t)) : exec (.rxByte b) s = .next t ∧ outs = [t.out] := by
  simp only [cycleRx, hflush, hrx, Bool.false_eq_true, if_false, List.nil_append] at h
  exact observe_performed rfl h

theorem observe_cycleRx_nothing (hflush : k.flush = false) (hrx : k.rx = none)
    (h : observe (cycleRx k) s = some (outs, t)) : t.rx = s.rx := by
  simp only [cycleRx, hflush, hrx, Bool.false_eq_true, if_false, List.append_nil] at h
  cases h
  rfl

-- The transmit path --------------------------------------------------------------------------------------

/-- While a frame is in progress an offered TX_EMIT is the whole of the transmit path's part. -/
theorem observe_cycleTx_busy_emit (hbusy : s.tx.phase ≠ .idle) (hemit : k.emit = true)
    (h : observe (cycleTx k s) s = some (outs, t)) : exec .txEmit s = .next t ∧ outs = [t.out] := by
  rw [cycleTx_of_busy hbusy, if_pos hemit] at h
  exact observe_performed ((enabled_of_txLine rfl).2 hbusy) h

theorem observe_cycleTx_busy_no_emit (hbusy : s.tx.phase ≠ .idle) (hemit : k.emit = false)
    (h : observe (cycleTx k s) s = some (outs, t)) : t.tx = s.tx ∧ outs = [] := by
  rw [cycleTx_of_busy hbusy, hemit, if_neg Bool.false_ne_true] at h
  cases h
  exact ⟨rfl, rfl⟩

/-- In Idle a TX_EMIT has no step, so the producer's operation, if there is one, meets the transmit path as it stood at
the start of the cycle. -/
theorem observe_cycleTx_idle (hidle : s.tx.phase = .idle) (h : observe (cycleTx k s) s = some (outs, t)) :
    ∃ u, u.tx = s.tx ∧ observe (k.producer.map producerInstr).toList u = some (outs, t) := by
  rw [cycleTx_of_idle hidle] at h
  split at h
  · obtain ⟨v, rest, hexec, hrest, rfl⟩ := runBy_cons_some h
    rw [exec_txEmit_of_idle hidle] at hexec
    cases hexec
    exact ⟨s.hold, rfl, hrest⟩
  · exact ⟨s, rfl, h⟩

theorem observe_cycleTx_idle_nothing (hidle : s.tx.phase = .idle) (hop : k.producer = none)
    (h : observe (cycleTx k s) s = some (outs, t)) : t.tx = s.tx ∧ outs = [] := by
  obtain ⟨u, hu, hrun⟩ := observe_cycleTx_idle hidle h
  rw [hop] at hrun
  cases hrun
  exact ⟨hu, rfl⟩

theorem observe_cycleTx_idle_producer {op : ProducerOp} (hidle : s.tx.phase = .idle) (hop : k.producer = some op)
    (h : observe (cycleTx k s) s = some (outs, t)) :
    ∃ u, u.tx = s.tx ∧ exec (producerInstr op) u = .next t ∧ outs = [t.out] := by
  obtain ⟨u, hu, hrun⟩ := observe_cycleTx_idle hidle h
  rw [hop] at hrun
  have hen : enabled (producerInstr op) u = true := by
    rwa [enabled_of_txProducer (agentOf_producerInstr op), hu]
  obtain ⟨hexec, houts⟩ := observe_performed hen hrun
  exact ⟨u, hu, hexec, houts⟩

/-- In Idle the transmit path's part puts no byte on the line. -/
theorem bytesOf_cycleTx_idle (hidle : s.tx.phase = .idle) (h : observe (cycleTx k s) s = some (outs, t)) :
    bytesOf outs = [] := by
  cases hop : k.producer with
  | none =>
    obtain ⟨-, rfl⟩ := observe_cycleTx_idle_nothing hidle hop h
    rfl
  | some op =>
    obtain ⟨u, -, hexec, rfl⟩ := observe_cycleTx_idle_producer hidle hop h
    obtain ⟨-, hbyte, -⟩ := oneOutputPerOperation _ u t hexec
    have hemit : producerInstr op ≠ .txEmit := by cases op <;> nofun
    have hnone : t.out.txByte = none := by_contra fun hsome => hemit (hbyte hsome)
    simp [bytesOf, hnone]

theorem observe_cycleTx_idle_push {b : Byte} (hidle : s.tx.phase = .idle) (hop : k.producer = some (.push b))
    (h : observe (cycleTx k s) s = some (outs, t)) :
    t.tx = if s.tx.len = 0xFFFF#16 then { s.tx with ovf := true } else s.tx.pushed b := by
  obtain ⟨u, hu, hexec, -⟩ := observe_cycleTx_idle_producer hidle hop h
  rw [producerInstr, exec_txPush, hu, whenIdle_idle hidle, pushByte_eq] at hexec
  cases hexec
  rfl

/-- In Idle a TX_SEND starts its frame, also in a cycle with a TX_EMIT, which then outputs nothing. -/
theorem observe_cycleTx_idle_send_starts {c : Byte} (hidle : s.tx.phase = .idle)
    (hop : k.producer = some (.send c)) (hovf : s.tx.ovf = false) (h : observe (cycleTx k s) s = some (outs, t)) :
    t.tx = { s.tx with cmd := c, idx := 0x0000#16, phase := .start } ∧ outs = [Out.quiet] := by
  obtain ⟨u, hu, hexec, rfl⟩ := observe_cycleTx_idle_producer hidle hop h
  rw [← hu] at hidle hovf ⊢
  cases hexec.symm.trans (sendCommand_starts c hidle hovf)
  exact ⟨rfl, rfl⟩

theorem observe_cycleTx_idle_send_fails {c : Byte} (hidle : s.tx.phase = .idle)
    (hop : k.producer = some (.send c)) (hovf : s.tx.ovf = true) (h : observe (cycleTx k s) s = some (outs, t)) :
    t.tx = { s.tx with len := 0x0000#16, ovf := false } ∧ outs = [raisePayloadTooLarge] := by
  obtain ⟨u, hu, hexec, rfl⟩ := observe_cycleTx_idle_producer hidle hop h
  rw [← hu] at hidle hovf ⊢
  cases hexec.symm.trans (sendCommand_fails c hidle hovf)
  exact ⟨rfl, rfl⟩

theorem observe_cycleTx_idle_clear (hidle : s.tx.phase = .idle) (hop : k.producer = some .clear)
    (h : observe (cycleTx k s) s = some (outs, t)) : t.tx = { s.tx with len := 0x0000#16, ovf := false } := by
  obtain ⟨u, hu, hexec, -⟩ := observe_cycleTx_idle_producer hidle hop h
  rw [producerInstr, exec_txClear, hu, whenIdle_idle hidle] at hexec
  cases hexec
  rfl

end

/-- Settles O49: a cycle with RESET is that RESET; any other splits into its two paths (`pathsRunIndependently`), and
the lemmas above say what each path's part does in each case. -/
theorem cycleOrder : Obligations.CycleOrder := by
  refine fun s k => ⟨fun hreset => ⟨_, exec_reset s, ?_⟩, fun hinv => hinv.observe_completes _,
    fun hreset outs t hcycle => ?_⟩
  · rw [execCycle, cycleOps, if_pos hreset]
    rfl
  obtain ⟨⟨outsRx, u, hrx, hurx, hevents⟩, outsTx, v, htx, hvtx, hbytes, herrors⟩ :=
    pathsRunIndependently _ _ _ _ (reset_notMem_cycleOps hreset) hcycle
  rw [filter_receivePath_cycleOps hreset] at hrx
  rw [filter_transmitPath_cycleOps hreset] at htx
  rw [← hurx, ← hvtx, ← hevents, ← hbytes, ← herrors]
  refine ⟨fun b hflush hb => observe_cycleRx_flush_byte hflush hb hrx,
    fun hflush hb => observe_cycleRx_flush hflush hb hrx, fun b hflush hb => ?_,
    fun hflush hb => observe_cycleRx_nothing hflush hb hrx, fun hbusy hemit => ?_, fun hck hemit => ?_,
    fun hbusy hemit => ?_, fun hidle => ⟨bytesOf_cycleTx_idle hidle htx, fun hop => ?_,
      fun b hop => observe_cycleTx_idle_push hidle hop htx, fun c hop hovf => ?_, fun c hop hovf => ?_,
      fun hop => observe_cycleTx_idle_clear hidle hop htx⟩⟩
  · obtain ⟨hexec, houts⟩ := observe_cycleRx_byte hflush hb hrx
    exact ⟨u, hexec, rfl, by rw [houts]⟩
  · obtain ⟨hexec, houts⟩ := observe_cycleTx_busy_emit hbusy hemit htx
    exact ⟨v, hexec, rfl, by rw [houts]⟩
  · obtain ⟨hexec, -⟩ := observe_cycleTx_busy_emit (by simp [hck]) hemit htx
    rw [exec_txEmit_of_done (emit_ck hck)] at hexec
    cases hexec
    rfl
  · obtain ⟨hv, houts⟩ := observe_cycleTx_busy_no_emit hbusy hemit htx
    exact ⟨hv, by rw [houts]; rfl⟩
  · obtain ⟨hv, -⟩ := observe_cycleTx_idle_nothing hidle hop htx
    exact hv
  · obtain ⟨hv, houts⟩ := observe_cycleTx_idle_send_starts hidle hop hovf htx
    exact ⟨hv, by rw [houts]; rfl⟩
  · obtain ⟨hv, houts⟩ := observe_cycleTx_idle_send_fails hidle hop hovf htx
    exact ⟨hv, by rw [houts]; rfl⟩

end Sys2Proof.Machine
end

section
/-! RESET and power-on (70_reset_and_hazards.md R210, R211). -/

namespace Sys2Proof.Machine

/-- Settles O35: RESET's writes, after which neither buffer lists a byte and every index reads as the next draw. -/
theorem resetOperation : Obligations.ResetOperation :=
  ⟨by decide, fun s => ⟨rfl, s.withReset, exec_reset s, rfl, rfl, rfl, rfl, rfl, rfl, rfl, rfl, rfl, rfl, rfl, rfl, rfl,
    fun a => ⟨memRead_unlisted (Memory.read?_nil a), memRead_unlisted (Memory.read?_nil a)⟩⟩⟩

/-- Settles O36: every RESET leaves the paths of `State.reset`, whose status outputs O37 gives. -/
theorem powerOnIsReset : Obligations.PowerOnIsReset := by
  obtain ⟨hstatus, -⟩ := statusOutputs
  refine ⟨fun s t h => ?_, rfl, hstatus⟩
  rw [exec_reset] at h
  cases h
  exact ⟨rfl, rfl⟩

end Sys2Proof.Machine
end

section
/-! How long a delivered payload stays in RXB (70_reset_and_hazards.md R214): the bytes that must come before the next
store go down by at most one with each RX_BYTE, and the store needs them at 0. -/

namespace Sys2Proof.Machine

/-- How many RX_BYTE operations at least come before the next one that can store to RXB: what is left of START,
LENGTH and COMMAND, and the CHECKSUM byte before them. -/
def RxState.bytesBeforeStore : RxState → Nat
  | .awaitStart => 4
  | .readLenHi => 3
  | .readLenLo => 2
  | .readCmd => 1
  | .readPayload => 0
  | .readChecksum => 5

section
variable {p : CkParams} {d : Nat} {b : Byte} {r q : RxPath} {o : Out}

theorem feed_bytesBeforeStore (h : feed p d b r = .done q o) :
    r.state.bytesBeforeStore ≤ q.state.bytesBeforeStore + 1 := by
  obtain ⟨hs, -, rfl⟩ | ⟨hs, -, rfl⟩ | ⟨hs, -, rfl⟩ | ⟨hs, -, rfl⟩ | ⟨hs, -, -, rfl⟩ | ⟨hs, -, rfl⟩ := feed_done h
  · by_cases hstart : b = Config.start <;> simp [rxAwaitStart, RxState.bytesBeforeStore, hs, hstart]
  all_goals simp [rxReadLenHi, rxReadLenLo, RxState.bytesBeforeStore, hs]

theorem feed_buf_of_bytesBeforeStore (hpos : 0 < r.state.bytesBeforeStore) (h : feed p d b r = .done q o) :
    q.buf = r.buf := by
  obtain ⟨hs, -⟩ | ⟨-, hbuf⟩ := feed_buf_cases h
  · rw [hs] at hpos
    exact absurd hpos (lt_irrefl 0)
  · exact hbuf

end

/-- RX_BYTE is never held. -/
theorem exec_rxByte_next {b : Byte} {s t : State} (h : exec (.rxByte b) s = .next t) :
    ∃ r o, feed Config.ck s.draws b s.rx = .done r o ∧ t = s.withRx r o := by
  obtain hdone | ⟨hheld, -⟩ := commitRx_next h
  · exact hdone
  · exact absurd hheld feed_ne_held

/-- No more RX_BYTE operations than must come before the next store leave RXB as it was. -/
theorem observe_rxBytes_buf {bytes : List Byte} {s t : State} {outs : List Out}
    (hlen : bytes.length ≤ s.rx.state.bytesBeforeStore) (h : observe (bytes.map .rxByte) s = some (outs, t)) :
    t.rx.buf = s.rx.buf ∧ t.draws = s.draws := by
  induction bytes generalizing s outs with
  | nil => cases h; exact ⟨rfl, rfl⟩
  | cons b bytes ih =>
    obtain ⟨u, rest, hexec, hrun, -⟩ := runBy_cons_some h
    obtain ⟨r, o, hfeed, rfl⟩ := exec_rxByte_next hexec
    have hrest : bytes.length ≤ r.state.bytesBeforeStore :=
      Nat.le_of_succ_le_succ (hlen.trans (feed_bytesBeforeStore hfeed))
    obtain ⟨hbuf, hdraws⟩ := ih hrest hrun
    exact ⟨hbuf.trans (feed_buf_of_bytesBeforeStore (Nat.zero_lt_of_lt hlen) hfeed), hdraws⟩

/-- Settles O23: in AwaitStart four bytes must come before the next store. -/
theorem fourBytesLeaveTheReceiveBuffer : Obligations.FourBytesLeaveTheReceiveBuffer := by
  intro s t bytes outs hs hlen h
  exact observe_rxBytes_buf (by rwa [hs]) h

end Sys2Proof.Machine
end

section
/-! The draw reaches no output (70_reset_and_hazards.md R210): under R37 and R38 the two operations that read a buffer
read written bytes only, so every operation does the same under any draw. -/

namespace Sys2Proof.Machine

/-- Written bytes read the same whatever the draw. -/
theorem memReadTo_written {m : Memory} {n : Nat} (h : Memory.writtenTo m n) (d d' : Nat) (b : Buffer) :
    memReadTo d b m n = memReadTo d' b m n :=
  List.map_congr_left fun i hi => memRead_written (h i (List.mem_range.1 hi)) d d' b

section
variable {p : CkParams} (d d' : Nat)

/-- RX_BYTE reads RXB in ReadChecksum alone, where the whole payload has been written. -/
theorem RxInv.feed_draw {r : RxPath} (hinv : RxInv r) (b : Byte) : feed p d b r = feed p d' b r := by
  cases hs : r.state
  case readChecksum =>
    have hwritten : Memory.writtenTo r.buf r.len.toNat := by
      simpa [RxPath.received, hinv.readChecksum hs] using hinv.written (.inr hs)
    rw [feed_readChecksum hs, feed_readChecksum hs, rxVerdict, rxVerdict, memReadTo_written hwritten d d']
  all_goals simp only [feed, hs]

/-- TX_EMIT reads TXB in Payload alone, at an index below tx_len, which has been written. -/
theorem TxInv.emit_draw {t : TxPath} (hinv : TxInv t) : emit p d t = emit p d' t := by
  cases hp : t.phase
  case payload =>
    simp only [emit, hp, emitPayload, memRead_written (hinv.written _ (hinv.payload hp)) d d']
  all_goals simp only [emit, hp]

end

section
variable {s t : State} (d : Nat)

theorem commitRx_withDraws {x : PathResult RxPath} (h : commitRx s x = .next t) :
    commitRx { s with draws := d } x = .next { t with draws := d } := by
  obtain ⟨r, o, rfl, rfl⟩ | ⟨rfl, rfl⟩ := commitRx_next h <;> rfl

theorem commitTx_withDraws {x : PathResult TxPath} (h : commitTx s x = .next t) :
    commitTx { s with draws := d } x = .next { t with draws := d } := by
  obtain ⟨p, o, rfl, rfl⟩ | ⟨rfl, rfl⟩ := commitTx_next h <;> rfl

/-- Under the invariant an operation under another draw differs in the draw alone. -/
theorem State.Inv.exec_withDraws (hinv : s.Inv) {i : Instr} (h : exec i s = .next t) :
    ∃ d', exec i { s with draws := d } = .next { t with draws := d' } := by
  obtain ⟨b, rfl⟩ | rfl | ⟨b, rfl⟩ | ⟨c, hc⟩ | rfl | rfl | rfl := instr_cases i
  · rw [exec_rxByte, hinv.rx.feed_draw s.draws d] at h
    exact ⟨d, commitRx_withDraws d h⟩
  · rw [exec_rxFlush] at h
    cases h
    exact ⟨d, rfl⟩
  · rw [exec_txPush] at h
    exact ⟨d, commitTx_withDraws d h⟩
  · rw [exec_of_commandOf hc] at h ⊢
    exact ⟨d, commitTx_withDraws d h⟩
  · rw [exec_txClear] at h
    exact ⟨d, commitTx_withDraws d h⟩
  · rw [exec_txEmit, hinv.tx.emit_draw s.draws d] at h
    exact ⟨d, commitTx_withDraws d h⟩
  · cases h
    exact ⟨d + 1, rfl⟩

end

/-- Settles O47: the next state under another draw differs from the first in the draw alone. -/
theorem drawReachesNoOutput : Obligations.DrawReachesNoOutput := by
  intro i s t d hinv h
  obtain ⟨d', hexec⟩ := hinv.exec_withDraws d h
  exact ⟨{ t with draws := d' }, hexec, rfl, rfl, rfl, rfl, rfl⟩

end Sys2Proof.Machine
end
